-- ==== Sys2Proof/Word.lean ====
section
/-! DEFINITION. The word types of the Arabell300 CORE engine, named as 00_scope.md rule R11 names them. -/

namespace Sys2Proof

/-- `u8`: a sample, a data byte, a command operand or an 8-bit register (rule R11). -/
abbrev Byte := BitVec 8

/-- `u16`: a command word, a response word or the phase accumulator; also the store of an `s16` cell (rule R11). -/
abbrev Word := BitVec 16

/-- `u24`: a carrier-detector counter (10_state.md rule R43). -/
abbrev Count := BitVec 24

end Sys2Proof
end

