-- ==== Sys2Proof/Machine/Memory.lean ====
section
/-! DEFINITION. The internal byte memories (20_memory.md rules R60 to R63): lists of cells in one canonical form,
addresses strictly rising and no cell holding what an unlisted index reads as. -/

namespace Sys2Proof.Machine

/-- What an unwritten FIFO entry reads as.
DESIGN CHOICE (log entry 1): the spec leaves it unspecified, and no run can observe it (rule R62). -/
def fifoFill : Byte := 0x00

/-- What an unlisted delay-line entry reads as: the reset value 0x80 of the live entries (70_reset_and_hazards.md rule R340).
For the entries that are not live this is a DESIGN CHOICE (log entry 2). -/
def dlFill : Byte := 0x80

/-- `MemRead(M, i, 1)` (rule R61). -/
def memRead (fill : Byte) : List Host.Cell → Nat → Byte
  | [], _ => fill
  | (a, v) :: m, i => if a = i then v else memRead fill m i

/-- `MemWrite(M, i, 1, v)` (rule R61), keeping the canonical form. -/
def memWrite (fill : Byte) : List Host.Cell → Nat → Byte → List Host.Cell
  | [], i, v => if v = fill then [] else [(i, v)]
  | (a, x) :: m, i, v =>
      if i < a then (if v = fill then (a, x) :: m else (i, v) :: (a, x) :: m)
      else if i = a then (if v = fill then m else (i, v) :: m)
      else (a, x) :: memWrite fill m i v

/-- The canonical form, with every address in `lo .. hi - 1`. -/
def memWfFrom (fill : Byte) (hi : Nat) : Nat → List Host.Cell → Bool
  | _, [] => true
  | lo, (a, v) :: m => decide (lo ≤ a) && decide (a < hi) && decide (v ≠ fill) && memWfFrom fill hi (a + 1) m

/-- A memory of `size` entries in canonical form. -/
def memWf (fill : Byte) (size : Nat) (m : List Host.Cell) : Bool := memWfFrom fill size 0 m

/-- `for k in 0 .. n - 1: MemWrite(M, k, 1, v)`, as in `Reconfigure` (45_line_control.md rule R266). -/
def memFill (fill : Byte) (v : Byte) (m : List Host.Cell) : Nat → List Host.Cell
  | 0 => m
  | n + 1 => memWrite fill (memFill fill v m n) n v

/-- `for k in 0 .. n - 1: MemWrite(M, k, 1, MemRead(M, k + 1, 1))`, the pop of the delay line (44_demodulator.md rule R210). -/
def memShift (fill : Byte) (m : List Host.Cell) : Nat → List Host.Cell
  | 0 => m
  | n + 1 => memWrite fill (memShift fill m n) n (memRead fill (memShift fill m n) (n + 1))

/-- The pop and push of the delay line: the entries move one place down and `raw` becomes the newest (rules R63 and R212). -/
def delayPush (queuelen : Nat) (m : List Host.Cell) (raw : Byte) : List Host.Cell :=
  memWrite dlFill (memShift dlFill m (queuelen - 1)) (queuelen - 1) raw

end Sys2Proof.Machine
end

