-- ==== Sys2Proof/Config.lean ====
section
/-! DEFINITION. What a build of the hardware fixes (00_scope.md rules R8 and R9): the shape of the parameters.
Their default values and the check that a build is legal stand in Machine/Build.lean.
No free value is needed: the spec leaves no result of an operation open (93_implementation_defined.md, U1 to U13). -/

namespace Sys2Proof

/-- One ToneSet (rule R9): two frequencies in Hz, the delay-line length in samples, and the polarity bit. -/
structure ToneSet where
  spaceHz  : Nat
  markHz   : Nat
  queuelen : Nat
  polarity : Bool
  deriving DecidableEq, Repr

/-- One ModemProfile (rule R9).
`duplex` is recorded (true is full duplex) and, as rule R9 says, no rule reads it. -/
structure Profile where
  originating : ToneSet
  answering   : ToneSet
  baud        : Nat
  dataBits    : Nat
  duplex      : Bool
  deriving DecidableEq, Repr

/-- The build parameters of rule R8, fixed for one piece of hardware.
`PROFILES` has exactly two rows: `profile0` (BELL103) and `profile1` (V21). -/
structure Build where
  sampleRate  : Nat
  txFifoBits  : Nat
  rxFifoBits  : Nat
  maxQueuelen : Nat
  prodShift   : Nat
  yShift      : Nat
  carrierBits : Nat
  profile0    : Profile
  profile1    : Profile
  deriving DecidableEq, Repr

/-- `PHASE_BITS`, fixed at 16 (rule R8): the width of `TX_PHASE`. -/
def Config.phaseBits : Nat := 16

/-- `PHASE_FRAC`, fixed at `PHASE_BITS - 8` (rule R8). -/
def Config.phaseFrac : Nat := Config.phaseBits - 8

end Sys2Proof
end

