-- ==== Sys2Proof/Machine/Build.lean ====
section
/-! DEFINITION. The default build, and the check that a build is legal (00_scope.md rules R8 and R9). -/

namespace Sys2Proof

/-- `BELL103_ORIG` (rule R9). -/
def bell103Orig : ToneSet := { spaceHz := 1070, markHz := 1270, queuelen := 14, polarity := false }

/-- `BELL103_ANS` (rule R9). -/
def bell103Ans : ToneSet := { spaceHz := 2025, markHz := 2225, queuelen := 8, polarity := false }

/-- `V21_CH1` (rule R9). -/
def v21Ch1 : ToneSet := { spaceHz := 1180, markHz := 980, queuelen := 11, polarity := false }

/-- `V21_CH2` (rule R9). -/
def v21Ch2 : ToneSet := { spaceHz := 1850, markHz := 1650, queuelen := 7, polarity := false }

/-- Profile 0, BELL103 (rule R9). -/
def bell103 : Profile :=
  { originating := bell103Orig, answering := bell103Ans, baud := 300, dataBits := 8, duplex := true }

/-- Profile 1, V21 (rule R9). -/
def v21 : Profile :=
  { originating := v21Ch1, answering := v21Ch2, baud := 300, dataBits := 8, duplex := true }

/-- The default column of rule R8. -/
def Build.default : Build :=
  { sampleRate := 9600, txFifoBits := 6, rxFifoBits := 6, maxQueuelen := 16, prodShift := 2, yShift := 1,
    carrierBits := 240, profile0 := bell103, profile1 := v21 }

/-- `lo <= v <= hi`. -/
def within (lo hi v : Nat) : Bool := lo <= v && v <= hi

/-- A legal ToneSet (rule R9); `SAMPLE_RATE/2` is floor division (rule R12). -/
def ToneSet.legal (sampleRate maxQueuelen : Nat) (t : ToneSet) : Bool :=
  within 1 maxQueuelen t.queuelen && (0 < t.spaceHz && t.spaceHz < sampleRate / 2) &&
    (0 < t.markHz && t.markHz < sampleRate / 2)

/-- A legal profile (rules R8 and R9). -/
def Profile.legal (sampleRate maxQueuelen : Nat) (p : Profile) : Bool :=
  p.originating.legal sampleRate maxQueuelen && p.answering.legal sampleRate maxQueuelen &&
    within 1 8 p.dataBits && within 4 255 (sampleRate / p.baud)

/-- The build check of rules R8, R9 and R344. -/
def Build.legal (b : Build) : Bool :=
  within 1200 65535 b.sampleRate && within 1 8 b.txFifoBits && within 1 8 b.rxFifoBits &&
    within 1 255 b.maxQueuelen && within 2 7 b.prodShift && within 1 7 b.yShift && within 1 255 b.carrierBits &&
    b.profile0.legal b.sampleRate b.maxQueuelen && b.profile1.legal b.sampleRate b.maxQueuelen

/-- `PROFILES[n]` (rules R9 and R23). -/
def Build.profile (b : Build) (n : BitVec 1) : Profile := if n = 0 then b.profile0 else b.profile1

/-- The larger `SPB` of the two profiles; the current `SPB` is one of the two (10_state.md rule R46). -/
def Build.maxSpb (b : Build) : Nat := max (b.sampleRate / b.profile0.baud) (b.sampleRate / b.profile1.baud)

/-- The larger `dataBits` of the two profiles. -/
def Build.maxDataBits (b : Build) : Nat := max b.profile0.dataBits b.profile1.dataBits

end Sys2Proof
end

