-- ==== Sys2Proof/Syntax.lean ====
section
/-! DEFINITION. The operations of the two ports as syntax: one constructor per row of spec/opcode_table.json
(30_encoding.md rule R86), 18 host commands and TICK. -/

namespace Sys2Proof

/-- The FIFO select of `FIFOLEN` (rule R154): 0 is the TX FIFO, 1 the RX FIFO. -/
inductive FifoSel where
  | tx
  | rx
  deriving DecidableEq, Repr

/-- The register select of `CFGRD` (rule R280). -/
inductive CfgReg where
  | cd
  | loss
  | wait
  | opt
  deriving DecidableEq, Repr

/-- One operation: a host command, or one TICK of the sample agent (rule R2). -/
inductive Instr where
  | nop                                  -- R150
  | txpush (b : Byte)                    -- R151: b = imm[7:0]
  | rxpop                                -- R152
  | rxpeek                               -- R153
  | fifolen (f : FifoSel)                -- R154: f = imm[0]
  | fifoclr (t r : Bool)                 -- R155: t = imm[0], r = imm[1]
  | setprofile (p : BitVec 1)            -- R270: p = imm[0]
  | setdir (a r : Bool)                  -- R271: a = imm[0], r = imm[1]
  | settxcar (v : Bool)                  -- R272: v = imm[0]
  | setrxcar (v : Bool)                  -- R273: v = imm[0]
  | acknc                                -- R274
  | status (g : BitVec 2)                -- R275: g = imm[1:0], 3 is reserved
  | setcdt (n : Byte)                    -- R277: n = imm[7:0]
  | setloss (n : Byte)                   -- R278: n = imm[7:0]
  | setwait (n : Byte)                   -- R279: n = imm[7:0]
  | setopt (g u : Bool)                  -- R276: g = imm[0], u = imm[1]
  | cfgrd (k : CfgReg)                   -- R280: k = imm[1:0]
  | dial (v : Bool)                      -- R196: v = imm[0]
  | tick (s : Byte)                      -- R110, R111: s = rx_sample
  deriving DecidableEq, Repr

end Sys2Proof
end

