-- ==== Sys2Proof/Machine/State.lean ====
section
/-! DEFINITION. The state of the engine (10_state.md), as plain data: every register, flag, memory and port, under the
spec's names in lower camel case. The block has no general registers and no program counter (rules R20 and R21). -/

namespace Sys2Proof.Machine

/-- `TX_STATE` (rule R31), one constructor per 3-bit code; codes 6 and 7 are written by no rule. -/
inductive TxState where
  | wait
  | preamble
  | startBit
  | dataBit
  | stopBit
  | trail
  | unused6
  | unused7
  deriving DecidableEq, Repr

/-- `RX_STATE` (rule R38), one constructor per 3-bit code. -/
inductive RxState where
  | wait
  | preamble
  | startBit
  | dataBit
  | stopBit
  | carrier
  | noCarrier
  | nop
  deriving DecidableEq, Repr

/-- The parts of a FIFO that change (rule R140): the byte memory, and the two index registers.
An index register is 8 bits wide, enough for the largest legal `F.BITS`; only its low `F.BITS` bits are read. -/
structure Fifo where
  buf    : List Host.Cell
  inIdx  : BitVec 8
  outIdx : BitVec 8
  deriving DecidableEq, Repr

/-- An operation waiting at the ports, in the single total order of 20_memory.md rule R70.
A TICK carries the input samples of its sample period: `rx_sample`, and the two inputs of the DTMF port (rule R45).
Reset is the third kind of operation (70_reset_and_hazards.md rule R341). -/
inductive PortOp where
  | command (w : Word)
  | tick (rxSample : Byte) (dtmfActive : Bool) (dtmfSample : Byte)
  | reset
  deriving DecidableEq, Repr

/-- The whole machine. -/
structure State where
  /-- The build parameters of rule R8: configuration, which no step writes. -/
  build          : Build
  -- control registers (rules R23 to R30)
  cfgProfile     : BitVec 1
  cfgDir         : BitVec 2
  cfgCdTenths    : BitVec 8
  cfgLossTenths  : BitVec 8
  cfgWaitSeconds : BitVec 8
  cfgOpt         : BitVec 2
  txCarrierOn    : Bool
  dialMode       : Bool
  -- TX engine (rules R31 to R37)
  txState        : TxState
  txActive       : Bool
  txSym          : Bool
  txByte         : BitVec 8
  txSr           : BitVec 8
  txBits         : BitVec 8
  txPhase        : BitVec 16
  txCnt          : BitVec 8
  -- RX engine (rules R38 to R42)
  rxState        : RxState
  rxHist         : BitVec 8
  rxBitsum       : BitVec 8
  rxCnt          : BitVec 8
  rxByte         : BitVec 8
  rxBits         : BitVec 4
  iirX0          : BitVec 16
  iirX1          : BitVec 16
  iirY0          : BitVec 16
  iirY1          : BitVec 16
  -- carrier detector (rule R43)
  carrierLocked  : Bool
  cdStreak       : BitVec 24
  waitCnt        : BitVec 24
  lossCnt        : BitVec 24
  acqFailed      : Bool
  -- memories (rule R44)
  txf            : Fifo
  rxf            : Fifo
  dl             : List Host.Cell
  -- ports and the response register (rule R45)
  txSample       : BitVec 8
  rsp            : BitVec 16
  dtmfSend       : Option (BitVec 8)
  dtmfActive     : Bool
  dtmfSample     : BitVec 8
  /-- The operations the two agents have issued and that have not taken effect, the next one first (rule R70). -/
  input          : List PortOp
  deriving DecidableEq, Repr

/-- Why a step stops with a fault: never.
The block raises no exception and takes no trap (60_exceptions.md rule R310), and nothing stops TICK processing
(00_scope.md rule R19), so the type has no constructor. -/
inductive Fault where
  deriving DecidableEq, Repr

/-- Why a step has no meaning. -/
inductive Refusal where
  /-- An instruction without a meaning in this model, raised by `exec`'s arm for it; safe.
  Every instruction has its meaning, so no arm raises it. -/
  | notModelled (mnemonic : String)
  /-- The build parameters are outside rules R8 and R9, raised by `step` before it takes any operation.
  "A value outside the legal range makes the configuration refused: the model has no meaning for it" (rule R8); safe. -/
  | illegalBuild
  deriving DecidableEq, Repr

/-- An empty FIFO, nothing written: the reset value of rule R44. -/
def Fifo.reset : Fifo := { buf := [], inIdx := 0, outIdx := 0 }

/-- The state after reset of a machine of build `b` (70_reset_and_hazards.md rule R340).
The delay line lists nothing, and an unlisted entry of it reads 0x80 (Machine/Memory.lean). -/
def State.resetOf (b : Build) : State :=
  { build := b
    cfgProfile := 0, cfgDir := 0, cfgCdTenths := 6, cfgLossTenths := 14, cfgWaitSeconds := 50, cfgOpt := 0b10
    txCarrierOn := false, dialMode := false
    txState := .wait, txActive := false, txSym := true, txByte := 0, txSr := 0, txBits := 0, txPhase := 0, txCnt := 0
    rxState := .nop, rxHist := 0, rxBitsum := 0, rxCnt := 0, rxByte := 0, rxBits := 0
    iirX0 := 0, iirX1 := 0, iirY0 := 0, iirY1 := 0
    carrierLocked := false, cdStreak := 0, waitCnt := 0, lossCnt := 0, acqFailed := false
    txf := Fifo.reset, rxf := Fifo.reset, dl := []
    txSample := 0x80, rsp := 0, dtmfSend := none, dtmfActive := false, dtmfSample := 0
    input := [] }

/-- The machine right after reset, at the default build (rules R8 and R340). -/
def State.reset : State := State.resetOf Build.default

end Sys2Proof.Machine
end

