-- ==== Sys2Proof/Machine/Fifo.lean ====
section
/-! DEFINITION. sample_fifo_async: the FIFO primitives (42_fifo.md rules R140 to R147).
`bits` is `F.BITS`, the build parameter of the FIFO. -/

namespace Sys2Proof.Machine

/-- `F.CAP` (rule R140). -/
def Fifo.cap (bits : Nat) : Nat := 2 ^ bits

/-- Index arithmetic modulo `F.CAP`, which is masking with `F.MASK` (rule R140). -/
def Fifo.wrap (bits n : Nat) : Nat := n % Fifo.cap bits

/-- `F.IN`, the next slot to write: the low `F.BITS` bits of the register (rules R61 and R140). -/
def Fifo.inPos (bits : Nat) (f : Fifo) : Nat := Fifo.wrap bits f.inIdx.toNat

/-- `F.OUT`, the next slot to read (rules R61 and R140). -/
def Fifo.outPos (bits : Nat) (f : Fifo) : Nat := Fifo.wrap bits f.outIdx.toNat

/-- `Empty(F)` (rule R141). -/
def Fifo.isEmpty (bits : Nat) (f : Fifo) : Bool := f.inPos bits == f.outPos bits

/-- `Full(F)` (rule R142). -/
def Fifo.isFull (bits : Nat) (f : Fifo) : Bool :=
  Fifo.wrap bits (Fifo.cap bits + f.outPos bits - f.inPos bits) == 1

/-- `Len(F)` (rule R143). -/
def Fifo.len (bits : Nat) (f : Fifo) : Nat :=
  Fifo.wrap bits (Fifo.cap bits + f.inPos bits - f.outPos bits)

/-- The index register that follows position `pos`. -/
def Fifo.next (bits pos : Nat) : BitVec 8 := BitVec.ofNat 8 (Fifo.wrap bits (pos + 1))

/-- The FIFO after `TryPush(F, b)` (rule R144): unchanged when full. -/
def Fifo.push (bits : Nat) (f : Fifo) (b : Byte) : Fifo :=
  if f.isFull bits then f
  else { f with buf := memWrite fifoFill f.buf (f.inPos bits) b, inIdx := Fifo.next bits (f.inPos bits) }

/-- The value `TryPush` returns (rule R144). -/
def Fifo.pushOk (bits : Nat) (f : Fifo) : Bool := !f.isFull bits

/-- `Peek(F)` (rule R146), which is also the byte `Pop(F)` returns (rule R145). -/
def Fifo.peek (bits : Nat) (f : Fifo) : Byte :=
  if f.isEmpty bits then 0x00 else memRead fifoFill f.buf (f.outPos bits)

/-- The FIFO after `Pop(F)` (rule R145): unchanged when empty. -/
def Fifo.pop (bits : Nat) (f : Fifo) : Fifo :=
  if f.isEmpty bits then f else { f with outIdx := Fifo.next bits (f.outPos bits) }

/-- `Clear(F)` (rule R147): the buffer is left as it was. -/
def Fifo.clear (f : Fifo) : Fifo := { f with inIdx := 0, outIdx := 0 }

/-- The `n` bytes from position `pos` on, in reading order. -/
def Fifo.bytesFrom (bits : Nat) (f : Fifo) : Nat → Nat → List Byte
  | _, 0 => []
  | pos, n + 1 => memRead fifoFill f.buf (Fifo.wrap bits pos) :: Fifo.bytesFrom bits f (pos + 1) n

/-- The stored bytes, oldest first (rule R148); a view for statements, not used by any operation. -/
def Fifo.contents (bits : Nat) (f : Fifo) : List Byte := f.bytesFrom bits (f.outPos bits) (f.len bits)

/-- What holds of a FIFO of the machine: a canonical memory of `F.CAP` entries, and indices that fit `F.BITS` bits (rule R140). -/
def Fifo.wf (bits : Nat) (f : Fifo) : Bool :=
  memWf fifoFill (Fifo.cap bits) f.buf && decide (f.inIdx.toNat < Fifo.cap bits) &&
    decide (f.outIdx.toNat < Fifo.cap bits)

end Sys2Proof.Machine
end

