-- ==== Sys2Proof/Machine/Arith.lean ====
section
/-! DEFINITION. The arithmetic helpers of 00_scope.md rule R12: computed on unbounded integers, narrowed once at the end. -/

namespace Sys2Proof.Machine

/-- `asr(v, k) = floor(v / 2^k)` (rule R12). -/
def asr (v : Int) (k : Nat) : Int := v / ((2 ^ k : Nat) : Int)

/-- `wraps16(v)`, stored as the 16-bit two's-complement word (rule R12). -/
def wraps16 (v : Int) : BitVec 16 := BitVec.ofInt 16 v

/-- `wrap16(v)` (rule R12). -/
def wrap16 (v : Nat) : BitVec 16 := BitVec.ofNat 16 v

/-- A u8 store of a sum (rule R12); the sums of the rules that name no wrap stay below 256. -/
def wrap8 (v : Nat) : BitVec 8 := BitVec.ofNat 8 v

/-- The value 1 or 0 of a one-bit quantity (rule R15: MARK is 1, SPACE is 0). -/
def bitVal (b : Bool) : Nat := if b then 1 else 0

/-- The largest u24 value, at which `CD_STREAK` saturates (10_state.md rule R43). -/
def maxCount : Nat := 2 ^ 24 - 1

end Sys2Proof.Machine
end

