-- ==== Sys2Proof/Machine/Wave.lean ====
section
/-! DEFINITION. sine_wavetable_lut and the phase steps (41_wavetable.md). -/

namespace Sys2Proof.Machine

/-- `WAVE_ROM[0 .. 63]`, the quarter-wave table; the listed integers are normative (rule R120). -/
def waveRom : List Nat :=
  [2, 5, 8, 11, 14, 17, 20, 23] ++ [26, 29, 32, 35, 38, 41, 44, 47] ++
  [50, 53, 56, 58, 61, 64, 67, 69] ++ [72, 74, 77, 79, 82, 84, 86, 89] ++
  [91, 93, 95, 97, 99, 101, 103, 105] ++ [106, 108, 110, 111, 113, 114, 115, 117] ++
  [118, 119, 120, 121, 122, 123, 124, 124] ++ [125, 125, 126, 126, 127, 127, 127, 127]

/-- `Q[i]` for `i` in 0..63 (rule R120). -/
def waveQ (i : Nat) : Nat := waveRom.getD i 0

/-- `Wave(p)` (rule R121): the quadrant is `p[7:6]`, the table index `p[5:0]`. -/
def wave (p : Byte) : Byte :=
  let q := p.extractLsb' 6 2
  let i := (p.extractLsb' 0 6).toNat
  if q = 0 then BitVec.ofNat 8 (0x80 + waveQ i)
  else if q = 1 then BitVec.ofNat 8 (0x80 + waveQ (63 - i))
  else if q = 2 then BitVec.ofNat 8 (0x80 - waveQ i)
  else BitVec.ofNat 8 (0x80 - waveQ (63 - i))

/-- One wave cycle in table positions, the source's `cyclesLength` (rule R124). -/
def cyclesLength : Nat := 256

/-- `StepFor(f)` (rule R125), rounding half up. -/
def stepFor (sampleRate f : Nat) : BitVec 16 :=
  wrap16 ((2 * (f * cyclesLength * 2 ^ Config.phaseFrac) + sampleRate) / (2 * sampleRate))

end Sys2Proof.Machine
end

