-- ==== Sys2Proof/Machine/Operands.lean ====
section
/-! DEFINITION. What an operation reads: the fields of the control registers and the derived constants, which are pure
functions of the build and the control registers (00_scope.md rule R10, 10_state.md rules R46 to R49). -/

namespace Sys2Proof.Machine

/-- `CFG_DIR.ANSWER` (rule R24). -/
def State.answer (s : State) : Bool := s.cfgDir.getLsbD 0

/-- `CFG_DIR.REVERSED` (rule R24). -/
def State.reversed (s : State) : Bool := s.cfgDir.getLsbD 1

/-- `CFG_OPT.DCD_IGNORE` (rule R28). -/
def State.dcdIgnore (s : State) : Bool := s.cfgOpt.getLsbD 0

/-- `CFG_OPT.DCD_FOLLOWS` (rule R28). -/
def State.dcdFollows (s : State) : Bool := s.cfgOpt.getLsbD 1

/-- `eff = ANSWER XOR REVERSED` (rule R46). -/
def State.eff (s : State) : Bool := s.answer ^^ s.reversed

/-- `P = PROFILES[CFG_PROFILE]` (rule R46). -/
def State.profile (s : State) : Profile := s.build.profile s.cfgProfile

/-- `TXTONES` (rule R46). -/
def State.txTones (s : State) : ToneSet := if s.eff then s.profile.answering else s.profile.originating

/-- `RXTONES` (rule R46). -/
def State.rxTones (s : State) : ToneSet := if s.eff then s.profile.originating else s.profile.answering

/-- `STEP[sym]` (rule R46): MARK is 1, SPACE is 0. -/
def State.phaseStep (s : State) (sym : Bool) : BitVec 16 :=
  stepFor s.build.sampleRate (if sym then s.txTones.markHz else s.txTones.spaceHz)

/-- `QUEUELEN` (rule R46). -/
def State.queuelen (s : State) : Nat := s.rxTones.queuelen

/-- `POLARITY` (rule R46). -/
def State.polarity (s : State) : Bool := s.rxTones.polarity

/-- `DATA_BITS` (rule R46). -/
def State.dataBits (s : State) : Nat := s.profile.dataBits

/-- `SPB`, the TICKs of a symbol period (rules R10 and R46). -/
def State.spb (s : State) : Nat := s.build.sampleRate / s.profile.baud

/-- `CD_TOTAL` (rule R47). -/
def State.cdTotal (s : State) : Nat :=
  let n := s.cfgCdTenths.toNat * s.build.sampleRate / 10
  max 1 (n - n / 16)

/-- `LOSS_SAMPLES` (rule R48). -/
def State.lossSamples (s : State) : Nat := s.cfgLossTenths.toNat * s.build.sampleRate / 10

/-- `WAIT_SAMPLES` (rule R49). -/
def State.waitSamples (s : State) : Nat := s.cfgWaitSeconds.toNat * s.build.sampleRate

/-- `Empty(TXF)` (42_fifo.md rule R141). -/
def State.txEmpty (s : State) : Bool := s.txf.isEmpty s.build.txFifoBits

/-- `Full(TXF)` (rule R142). -/
def State.txFull (s : State) : Bool := s.txf.isFull s.build.txFifoBits

/-- `Len(TXF)` (rule R143). -/
def State.txLen (s : State) : Nat := s.txf.len s.build.txFifoBits

/-- `Empty(RXF)` (rule R141). -/
def State.rxEmpty (s : State) : Bool := s.rxf.isEmpty s.build.rxFifoBits

/-- `Full(RXF)` (rule R142). -/
def State.rxFull (s : State) : Bool := s.rxf.isFull s.build.rxFifoBits

/-- `Len(RXF)` (rule R143). -/
def State.rxLen (s : State) : Nat := s.rxf.len s.build.rxFifoBits

/-- `MemRead(DL, i, 1)` (20_memory.md rule R61). -/
def State.dlRead (s : State) (i : Nat) : Byte := memRead dlFill s.dl i

/-- The state that `TX_STATE` acts as: codes 6 and 7 as WAIT (43_modulator.md rule R175, 60_exceptions.md rule R330). -/
def TxState.acting : TxState → TxState
  | .unused6  => .wait
  | .unused7  => .wait
  | .wait     => .wait
  | .preamble => .preamble
  | .startBit => .startBit
  | .dataBit  => .dataBit
  | .stopBit  => .stopBit
  | .trail    => .trail

end Sys2Proof.Machine
end

