-- ==== Sys2Proof/Machine/Flags.lean ====
section
/-! DEFINITION. The words that software reads: the response word, the state codes and the status pages, and the dcd port.
The block has no arithmetic condition codes (10_state.md rule R51). -/

namespace Sys2Proof.Machine

/-- The response word `ERR`, six zeros, `FLAG`, `DATA` (30_encoding.md rule R84). -/
def responseWord (err flag : Bool) (data : Byte) : Word :=
  BitVec.ofBool err ++ 0#6 ++ BitVec.ofBool flag ++ data

/-- The 3-bit code of `TX_STATE` (rule R31). -/
def TxState.code : TxState → BitVec 3
  | .wait     => 0
  | .preamble => 1
  | .startBit => 2
  | .dataBit  => 3
  | .stopBit  => 4
  | .trail    => 5
  | .unused6  => 6
  | .unused7  => 7

/-- The 3-bit code of `RX_STATE` (rule R38). -/
def RxState.code : RxState → BitVec 3
  | .wait      => 0
  | .preamble  => 1
  | .startBit  => 2
  | .dataBit   => 3
  | .stopBit   => 4
  | .carrier   => 5
  | .noCarrier => 6
  | .nop       => 7

/-- Status page 0 (rule R50). -/
def State.page0 (s : State) : Byte :=
  BitVec.ofBool s.txActive ++ BitVec.ofBool s.carrierLocked ++ s.txState.code ++ s.rxState.code

/-- Status page 1 (rule R50). -/
def State.page1 (s : State) : Byte :=
  0#1 ++ BitVec.ofBool s.rxFull ++ BitVec.ofBool s.rxEmpty ++ BitVec.ofBool s.txFull ++ BitVec.ofBool s.txEmpty ++
    BitVec.ofBool s.dialMode ++ BitVec.ofBool s.acqFailed ++ BitVec.ofBool s.txCarrierOn

/-- Status page 2 (rule R50). -/
def State.page2 (s : State) : Byte :=
  0#4 ++ BitVec.ofBool s.eff ++ s.cfgDir ++ s.cfgProfile

/-- `page(g)` for a legal `g` (rule R275). -/
def State.page (s : State) (g : BitVec 2) : Byte :=
  if g = 0 then s.page0 else if g = 1 then s.page1 else s.page2

/-- The `dcd` output, equal to `CARRIER_LOCKED` at all times (rule R45). -/
def State.dcd (s : State) : Bool := s.carrierLocked

end Sys2Proof.Machine
end

