-- ==== Sys2Proof/Machine/Ops.lean ====
section
/-! DEFINITION. The operations that several instructions share: the response, the exceptional response, reset, and the
helpers `Reconfigure` and `Acquire` (45_line_control.md).
The block takes no exception and has no return (60_exceptions.md rules R310, R321 and R322); what stands in for exception
entry is `rejectCommand`, the one exceptional response. -/

namespace Sys2Proof.Machine

/-- `respond(err, flag, data)` (30_encoding.md rule R84). -/
def State.respond (s : State) (err flag : Bool) (data : Byte) : State :=
  { s with rsp := responseWord err flag data }

/-- Event E1, `ILLEGAL_CMD` (rules R87, R88 and R312): the response 0x8000 and no other change. -/
def State.rejectCommand (s : State) : State := s.respond true false 0x00

/-- The reset operation (70_reset_and_hazards.md rules R340 and R341).
It is a function of the build alone, but for what the block does not hold: the levels at the DTMF inputs and the
operations still to come, which reset does not touch. -/
def State.resetEvent (s : State) : State :=
  { State.resetOf s.build with dtmfActive := s.dtmfActive, dtmfSample := s.dtmfSample, input := s.input }

/-- `Reconfigure()` (rule R266), run after the new control register value is in place. -/
def State.reconfigure (s : State) : State :=
  { s with
    txCarrierOn := false
    txf := s.txf.clear
    rxf := s.rxf.clear
    dl := memFill dlFill 0x80 s.dl s.queuelen }

/-- Carrier lock: the three writes that `Acquire` (rule R262) and `CarrierStep` (rule R263) share. -/
def State.lockCarrier (s : State) : State :=
  { s with carrierLocked := true, lossCnt := BitVec.ofNat 24 s.lossSamples, rxState := .wait }

/-- `Acquire()` (rule R262). -/
def State.acquire (s : State) : State :=
  if s.cfgWaitSeconds = 0 || s.dcdIgnore then
    State.lockCarrier { s with acqFailed := false }
  else
    { s with
      acqFailed := false
      cdStreak := 0
      waitCnt := BitVec.ofNat 24 s.waitSamples
      carrierLocked := false
      rxState := .carrier }

end Sys2Proof.Machine
end

