-- ==== Sys2Proof/Machine/ConfigCommands.lean ====
section
/-! DEFINITION. The configuration commands (45_line_control.md rules R276 to R280). -/

namespace Sys2Proof.Machine

/-- `SETCDT n` (rule R277). -/
def execSetcdt (n : Byte) (s : State) : Host.Outcome State Fault Refusal :=
  .next (State.respond { s with cfgCdTenths := n } false false 0x00)

/-- `SETLOSS n` (rule R278); `LOSS_CNT` is not reloaded. -/
def execSetloss (n : Byte) (s : State) : Host.Outcome State Fault Refusal :=
  .next (State.respond { s with cfgLossTenths := n } false false 0x00)

/-- `SETWAIT n` (rule R279); `WAIT_CNT` is not reloaded. -/
def execSetwait (n : Byte) (s : State) : Host.Outcome State Fault Refusal :=
  .next (State.respond { s with cfgWaitSeconds := n } false false 0x00)

/-- `SETOPT u, g` (rule R276): `CFG_OPT <- {u, g}`. -/
def execSetopt (g u : Bool) (s : State) : Host.Outcome State Fault Refusal :=
  .next (State.respond { s with cfgOpt := BitVec.ofBool u ++ BitVec.ofBool g } false false 0x00)

/-- The value `CFGRD k` reads (rule R280); `CFG_OPT` is zero-extended. -/
def State.cfgValue (s : State) : CfgReg → Byte
  | .cd   => s.cfgCdTenths
  | .loss => s.cfgLossTenths
  | .wait => s.cfgWaitSeconds
  | .opt  => s.cfgOpt.setWidth 8

/-- `CFGRD k` (rule R280). -/
def execCfgrd (k : CfgReg) (s : State) : Host.Outcome State Fault Refusal :=
  .next (s.respond false false (s.cfgValue k))

end Sys2Proof.Machine
end

