-- ==== Sys2Proof/Machine/FifoCommands.lean ====
section
/-! DEFINITION. The host FIFO commands (42_fifo.md rules R150 to R155). -/

namespace Sys2Proof.Machine

/-- `NOP` (rule R150). -/
def execNop (s : State) : Host.Outcome State Fault Refusal := .next (s.respond false false 0x00)

/-- `TXPUSH b` (rule R151). -/
def execTxpush (b : Byte) (s : State) : Host.Outcome State Fault Refusal :=
  .next (State.respond { s with txf := s.txf.push s.build.txFifoBits b } false (s.txf.pushOk s.build.txFifoBits) 0x00)

/-- `RXPOP` (rule R152). -/
def execRxpop (s : State) : Host.Outcome State Fault Refusal :=
  .next (State.respond { s with rxf := s.rxf.pop s.build.rxFifoBits } false (!s.rxEmpty) (s.rxf.peek s.build.rxFifoBits))

/-- `RXPEEK` (rule R153). -/
def execRxpeek (s : State) : Host.Outcome State Fault Refusal :=
  .next (s.respond false (!s.rxEmpty) (s.rxf.peek s.build.rxFifoBits))

/-- `FIFOLEN f` (rule R154). -/
def execFifolen (f : FifoSel) (s : State) : Host.Outcome State Fault Refusal :=
  match f with
  | .tx => .next (s.respond false s.txFull (BitVec.ofNat 8 s.txLen))
  | .rx => .next (s.respond false s.rxFull (BitVec.ofNat 8 s.rxLen))

/-- `FIFOCLR m` (rule R155). -/
def execFifoclr (t r : Bool) (s : State) : Host.Outcome State Fault Refusal :=
  .next (State.respond
    { s with txf := if t then s.txf.clear else s.txf, rxf := if r then s.rxf.clear else s.rxf } false false 0x00)

end Sys2Proof.Machine
end

