-- ==== Sys2Proof/Machine/LineCommands.lean ====
section
/-! DEFINITION. The line-control commands and STATUS (45_line_control.md rules R270 to R275), and DIAL
(43_modulator.md rule R196). -/

namespace Sys2Proof.Machine

/-- `SETPROFILE p` (rule R270). -/
def execSetprofile (p : BitVec 1) (s : State) : Host.Outcome State Fault Refusal :=
  .next ((State.reconfigure { s with cfgProfile := p }).respond false false 0x00)

/-- `SETDIR a, r` (rule R271): `CFG_DIR <- {r, a}`. -/
def execSetdir (a r : Bool) (s : State) : Host.Outcome State Fault Refusal :=
  .next ((State.reconfigure { s with cfgDir := BitVec.ofBool r ++ BitVec.ofBool a }).respond false false 0x00)

/-- `SETTXCAR v` (rule R272). -/
def execSettxcar (v : Bool) (s : State) : Host.Outcome State Fault Refusal :=
  .next (State.respond { s with txCarrierOn := v } false false 0x00)

/-- `SETRXCAR v` (rule R273). -/
def execSetrxcar (v : Bool) (s : State) : Host.Outcome State Fault Refusal :=
  if v then .next (s.acquire.respond false s.acquire.carrierLocked 0x00)
  else .next (State.respond { s with rxState := .nop, carrierLocked := false, acqFailed := false } false false 0x00)

/-- `ACKNC` (rule R274). -/
def execAcknc (s : State) : Host.Outcome State Fault Refusal :=
  if s.rxState = .noCarrier then .next (State.respond { s with rxState := .nop } false true 0x00)
  else .next (s.respond false false 0x00)

/-- `STATUS g` (rule R275); the reserved page 3 is an illegal command (30_encoding.md rule R87). -/
def execStatus (g : BitVec 2) (s : State) : Host.Outcome State Fault Refusal :=
  if g = 3 then .next s.rejectCommand else .next (s.respond false false (s.page g))

/-- `DIAL v` (rule R196). -/
def execDial (v : Bool) (s : State) : Host.Outcome State Fault Refusal :=
  if v then
    if s.dialMode then .next (s.respond false true 0x00)
    else if s.txState.acting = .wait && !s.txActive then
      .next (State.respond { s with dialMode := true } false true 0x00)
    else .next (s.respond false false 0x00)
  else .next (State.respond { s with dialMode := false } false s.dialMode 0x00)

end Sys2Proof.Machine
end

