-- ==== Sys2Proof/Machine/Demodulator.lean ====
section
/-! DEFINITION. mark_space_correlator, iir_lpf_discriminator, bit_synchronizer, the RX uart_framer (44_demodulator.md)
and the lock detection of the carrier_detector (45_line_control.md rule R263). -/

namespace Sys2Proof.Machine

/-- `raw - 128` (rule R211). -/
def unbias (raw : Byte) : Int := (raw.toNat : Int) - 128

/-- The product `p` (rule R213). -/
def correlate (prodShift : Nat) (delayed current : Int) : BitVec 16 := wraps16 (asr (delayed * current) prodShift)

/-- The filter output `y[n]` (rule R215), from `x[n-1]`, `x[n]` and `y[n-1]`. -/
def filterOut (yShift : Nat) (xPrev xNow yPrev : BitVec 16) : BitVec 16 :=
  wraps16 (xPrev.toInt + xNow.toInt + asr yPrev.toInt yShift)

/-- The bit decision (rule R217): exactly 0 decides SPACE before the XOR. -/
def bitDecision (polarity : Bool) (y : BitVec 16) : Bool := decide (0 < y.toInt) ^^ polarity

/-- The delay line, the product and the filter of `DemodStep` (rules R210 to R215). -/
def signalChain (raw : Byte) (s : State) : State :=
  let p := correlate s.build.prodShift (unbias (s.dlRead 0)) (unbias raw)
  { s with
    dl := delayPush s.queuelen s.dl raw
    iirX0 := s.iirX1
    iirX1 := p
    iirY0 := s.iirY1
    iirY1 := filterOut s.build.yShift s.iirX1 p s.iirY1 }

/-- The decision for the sample whose filter output `IIR_Y1` holds (rule R217). -/
def State.decision (s : State) : Bool := bitDecision s.polarity s.iirY1

/-- `RX_HIST <- wrap8((RX_HIST << 1) OR bit)` (rule R218). -/
def pushHistory (bit : Bool) (s : State) : State :=
  { s with rxHist := (s.rxHist <<< 1) ||| BitVec.ofNat 8 (bitVal bit) }

/-- `CD_STREAK` after one more decision: saturating, and 0 after a LOW one (45_line_control.md rule R263). -/
def State.nextStreak (s : State) (bit : Bool) : BitVec 24 :=
  if bit then BitVec.ofNat 24 (min (s.cdStreak.toNat + 1) maxCount) else 0

/-- `WAIT_CNT` after one more TICK without a lock: it stops at 0 (rule R263). -/
def State.nextWait (s : State) : BitVec 24 := if 0 < s.waitCnt.toNat then s.waitCnt - 1 else s.waitCnt

/-- `CarrierStep(bit)` (rule R263). -/
def carrierStep (bit : Bool) (s : State) : State :=
  if s.cdTotal ≤ (s.nextStreak bit).toNat then State.lockCarrier { s with cdStreak := s.nextStreak bit }
  else if s.nextWait = 0 then
    { s with cdStreak := s.nextStreak bit, waitCnt := s.nextWait, acqFailed := true, rxState := .nop }
  else { s with cdStreak := s.nextStreak bit, waitCnt := s.nextWait }

/-- `RxFrame/WAIT`, part 2: the edge search (rule R222). -/
def rxEdgeSearch (s : State) : State :=
  if s.rxHist.extractLsb' 0 2 = 0b10#2 then { s with rxBitsum := 0, rxCnt := 0, rxState := .preamble } else s

/-- Carrier loss, event E7 (rule R221, 60_exceptions.md rule R318). -/
def State.loseCarrier (s : State) : State :=
  { s with lossCnt := 0, carrierLocked := false, rxState := .noCarrier }

/-- `RxFrame/WAIT` (rules R221 to R223): the loss timer, then the edge search. -/
def rxWait (s : State) : State :=
  if s.carrierLocked && s.dcdFollows then
    if s.rxHist = 0xFF then rxEdgeSearch { s with lossCnt := BitVec.ofNat 24 s.lossSamples }
    else if s.lossCnt.toNat ≤ 1 then s.loseCarrier
    else rxEdgeSearch { s with lossCnt := s.lossCnt - 1 }
  else rxEdgeSearch s

/-- One decision into the window: `RX_BITSUM + bit`, `RX_CNT + 1` (rules R224 to R228). -/
def countDecision (bit : Bool) (s : State) : State :=
  { s with rxBitsum := wrap8 (s.rxBitsum.toNat + bitVal bit), rxCnt := wrap8 (s.rxCnt.toNat + 1) }

/-- The end of the PREAMBLE window (rule R224). -/
def rxPreambleCheck (s : State) : State :=
  if s.spb / 2 ≤ s.rxCnt.toNat then
    if s.rxBitsum.toNat ≤ s.spb / 8 then { s with rxState := .startBit } else { s with rxState := .wait }
  else s

/-- The end of the START_BIT window (rule R225). -/
def rxStartBitCheck (s : State) : State :=
  if s.spb ≤ s.rxCnt.toNat then
    if s.rxBitsum.toNat ≤ s.spb / 4 then
      { s with rxBitsum := 0, rxCnt := 0, rxByte := 0, rxBits := 0, rxState := .dataBit }
    else { s with rxState := .wait }
  else s

/-- The end of a DATA_BIT window (rules R226 and R227). -/
def rxDataBitCheck (s : State) : State :=
  if s.spb ≤ s.rxCnt.toNat then
    let b := decide (s.spb / 2 < s.rxBitsum.toNat)
    let bits : BitVec 4 := BitVec.ofNat 4 (s.rxBits.toNat + 1)
    { s with
      rxByte := s.rxByte ||| wrap8 (bitVal b * 2 ^ s.rxBits.toNat)
      rxBits := bits
      rxBitsum := 0
      rxCnt := 0
      rxState := if s.dataBits ≤ bits.toNat then .stopBit else .dataBit }
  else s

/-- The end of the STOP_BIT window (rule R228); a byte for a full RX FIFO is dropped (42_fifo.md rule R156). -/
def rxStopBitCheck (s : State) : State :=
  if s.spb / 2 ≤ s.rxCnt.toNat then
    if s.spb / 4 < s.rxBitsum.toNat then
      { s with rxf := s.rxf.push s.build.rxFifoBits s.rxByte, rxState := .wait }
    else { s with rxState := .wait }
  else s

/-- `RxFrame(bit)` (rule R220). -/
def rxFrame (bit : Bool) (s : State) : State :=
  match s.rxState with
  | .wait      => rxWait s
  | .preamble  => rxPreambleCheck (countDecision bit s)
  | .startBit  => rxStartBitCheck (countDecision bit s)
  | .dataBit   => rxDataBitCheck (countDecision bit s)
  | .stopBit   => rxStopBitCheck (countDecision bit s)
  | .carrier   => carrierStep bit s
  | .noCarrier => s
  | .nop       => s

/-- One decision into the history and the framer: the end of `DemodStep` (rules R210, R218 and R220). -/
def takeDecision (bit : Bool) (s : State) : State := rxFrame bit (pushHistory bit s)

/-- `DemodStep(raw)` (rule R210). -/
def demodStep (raw : Byte) (s : State) : State :=
  takeDecision (signalChain raw s).decision (signalChain raw s)

end Sys2Proof.Machine
end

