-- ==== Sys2Proof/Machine/Modulator.lean ====
section
/-! DEFINITION. phase_accumulator, the TX uart_framer and the dial side channel (43_modulator.md). -/

namespace Sys2Proof.Machine

/-- `S.TX_BYTE <- Pop(TXF)` (rules R181, R185 and R186). -/
def State.takeTxByte (s : State) : State :=
  { s with txByte := s.txf.peek s.build.txFifoBits, txf := s.txf.pop s.build.txFifoBits }

/-- The next start bit, with its byte taken from the FIFO (rules R185 and R186). -/
def State.startNextByte (s : State) : State :=
  { s.takeTxByte with txSym := false, txState := .startBit }

/-- `TxFrame/WAIT` (rule R181). -/
def txWait (s : State) : State :=
  if s.txEmpty then { s with txSym := true }
  else { s.takeTxByte with txSym := true, txActive := true, txBits := 0, txState := .preamble }

/-- `TxFrame/PREAMBLE` (rule R182). -/
def txPreamble (s : State) : State :=
  let bits := wrap8 (s.txBits.toNat + 1)
  if s.build.carrierBits ≤ bits.toNat || s.txCarrierOn then
    { s with txSym := false, txBits := bits, txState := .startBit }
  else { s with txSym := true, txBits := bits }

/-- `TxFrame/START_BIT` (rule R183). -/
def txStartBit (s : State) : State :=
  { s with txSr := s.txByte >>> 1, txSym := s.txByte.getLsbD 0, txBits := 1, txState := .dataBit }

/-- `TxFrame/DATA_BIT` (rule R184). -/
def txDataBit (s : State) : State :=
  if s.dataBits ≤ s.txBits.toNat then { s with txSym := true, txState := .stopBit }
  else { s with txSym := s.txSr.getLsbD 0, txSr := s.txSr >>> 1, txBits := wrap8 (s.txBits.toNat + 1) }

/-- `TxFrame/STOP_BIT` (rule R185). -/
def txStopBit (s : State) : State :=
  if s.txEmpty then { s with txSym := true, txBits := 0, txState := .trail } else s.startNextByte

/-- The count of trail symbols after one more of them, held at `CARRIER_BITS` (rule R186). -/
def State.trailBits (s : State) : BitVec 8 :=
  if s.txBits.toNat < s.build.carrierBits then wrap8 (s.txBits.toNat + 1) else s.txBits

/-- `TxFrame/TRAIL` (rule R186). -/
def txTrail (s : State) : State :=
  if s.txEmpty then
    if s.build.carrierBits ≤ s.trailBits.toNat && !s.txCarrierOn then
      { s with txSym := true, txActive := false, txPhase := 0, txCnt := 0, txBits := 0, txState := .wait }
    else { s with txSym := true, txBits := s.trailBits }
  else s.startNextByte

/-- `TxFrame()` (rule R175). -/
def txFrame (s : State) : State :=
  match s.txState.acting with
  | .preamble => txPreamble s
  | .startBit => txStartBit s
  | .dataBit  => txDataBit s
  | .stopBit  => txStopBit s
  | .trail    => txTrail s
  | .wait     => txWait s
  | .unused6  => txWait s
  | .unused7  => txWait s

/-- The tone is on (rule R170). -/
def State.toneOn (s : State) : Bool := s.txActive || s.txCarrierOn

/-- The output sample of `ModStep` (rules R170 and R172), from the phase before this TICK's advance. -/
def modOut (s : State) : Byte :=
  if s.toneOn then wave (s.txPhase.extractLsb' 8 8) else 0x80

/-- The phase_accumulator (rules R170 and R171): the wrap at 2^16 is one cycle. -/
def State.nextPhase (s : State) : BitVec 16 :=
  if s.toneOn then wrap16 (s.txPhase.toNat + (s.phaseStep s.txSym).toNat) else s.txPhase

/-- The tone part of `ModStep` (rule R170). -/
def advancePhase (s : State) : State := { s with txPhase := s.nextPhase }

/-- The symbol clock of `ModStep` (rules R170 and R174). -/
def symbolClock (s : State) : State :=
  let cnt := wrap8 (s.txCnt.toNat + 1)
  if s.spb ≤ cnt.toNat then txFrame { s with txCnt := 0 } else { s with txCnt := cnt }

/-- The state after `ModStep()` (rule R170). -/
def modStep (s : State) : State := symbolClock (advancePhase s)

/-- The output sample of `DialStep` (rule R195). -/
def dialOut (s : State) : Byte := if s.dtmfActive then s.dtmfSample else 0x80

/-- The state after `DialStep()` (rule R195). `dtmfSend` is the event port of this TICK. -/
def dialStep (s : State) : State :=
  if s.dtmfActive then s
  else if s.txEmpty then { s with dialMode := false }
  else
    { s with
      dtmfSend := some (s.txf.peek s.build.txFifoBits)
      txf := s.txf.pop s.build.txFifoBits }

end Sys2Proof.Machine
end

