-- ==== Sys2Proof/Machine/Tick.lean ====
section
/-! DEFINITION. TICK, the one operation of the sample port (40_tick.md). -/

namespace Sys2Proof.Machine

/-- The sample that a TICK emits (rules R111 and R112). -/
def tickOut (s : State) : Byte := if s.dialMode then dialOut s else modOut s

/-- The transmit part of a TICK (rule R111). A TICK outside dial mode emits no `dtmf_send` event (rule R112). -/
def tickTransmit (s : State) : State :=
  if s.dialMode then dialStep { s with dtmfSend := none } else modStep { s with dtmfSend := none }

/-- `TICK(rx_sample)` (rule R111): the modulator part, then the demodulator part, then the output. -/
def execTick (raw : Byte) (s : State) : Host.Outcome State Fault Refusal :=
  .next { demodStep raw (tickTransmit s) with txSample := tickOut s }

end Sys2Proof.Machine
end

