-- ==== Sys2Proof/Machine/Dispatch.lean ====
section
/-! DEFINITION. The dispatch of an operation to its meaning, one arm per constructor (30_encoding.md rule R86). -/

namespace Sys2Proof.Machine

def exec (i : Instr) (s : State) : Host.Outcome State Fault Refusal :=
  match i with
  | .nop => Sys2Proof.Machine.execNop s
  | .txpush b => Sys2Proof.Machine.execTxpush b s
  | .rxpop => Sys2Proof.Machine.execRxpop s
  | .rxpeek => Sys2Proof.Machine.execRxpeek s
  | .fifolen f => Sys2Proof.Machine.execFifolen f s
  | .fifoclr t r => Sys2Proof.Machine.execFifoclr t r s
  | .setprofile p => Sys2Proof.Machine.execSetprofile p s
  | .setdir a r => Sys2Proof.Machine.execSetdir a r s
  | .settxcar v => Sys2Proof.Machine.execSettxcar v s
  | .setrxcar v => Sys2Proof.Machine.execSetrxcar v s
  | .acknc => Sys2Proof.Machine.execAcknc s
  | .status g => Sys2Proof.Machine.execStatus g s
  | .setcdt n => Sys2Proof.Machine.execSetcdt n s
  | .setloss n => Sys2Proof.Machine.execSetloss n s
  | .setwait n => Sys2Proof.Machine.execSetwait n s
  | .setopt g u => Sys2Proof.Machine.execSetopt g u s
  | .cfgrd k => Sys2Proof.Machine.execCfgrd k s
  | .dial v => Sys2Proof.Machine.execDial v s
  | .tick x => Sys2Proof.Machine.execTick x s

end Sys2Proof.Machine
end

