-- ==== Sys2Proof/WellFormed.lean ====
section
/-! DEFINITION. Which operations an encoding exists for as a legal one.
Every operand but one fills its field, so its type is the whole check; the one reserved value is `STATUS` page 3. -/

namespace Sys2Proof

/-- An operation is well-formed when its word is legal (30_encoding.md rules R87 and R88): `STATUS` has pages 0 to 2. -/
def Instr.wellFormed : Instr → Bool
  | .status g => g != 3
  | .nop | .txpush _ | .rxpop | .rxpeek | .fifolen _ | .fifoclr _ _ => true
  | .setprofile _ | .setdir _ _ | .settxcar _ | .setrxcar _ | .acknc => true
  | .setcdt _ | .setloss _ | .setwait _ | .setopt _ _ | .cfgrd _ | .dial _ | .tick _ => true

end Sys2Proof
end

