-- ==== Sys2Proof/Decode.lean ====
section
/-! DEFINITION. Decoding of both ports, total, and the encoder (30_encoding.md rules R80 to R93).
The opcode map of rule R86 is a list of rows, so that it reads as the spec's table does. -/

namespace Sys2Proof

/-- What an agent puts on an input port for one operation (rule R80): a format C command word, or a format T sample. -/
inductive PortWord where
  | command (w : Word)
  | sample (b : Byte)
  deriving DecidableEq, Repr

/-- Why a command word is illegal (rule R88). All three have the same verdict, event E1 (rule R312). -/
inductive Reject where
  /-- No row of the opcode map has this `op` (0x06..0x0F, 0x16..0x1F, 0x25..0x2F, 0x31..0xFF). -/
  | illegalOpcode
  /-- The `op` is a row's, and an operand bit that the row's mask covers is 1. -/
  | reservedBits
  /-- `STATUS` with page 3. -/
  | reservedPage
  deriving DecidableEq, Repr

/-- The verdict of the decoder: the operation, or the reason there is none. -/
inductive Decoded where
  | instr (i : Instr)
  | rejected (r : Reject)
  deriving DecidableEq, Repr

/-- One row of rule R86. `bits` is the column `match`; `read` assembles the operand fields (rule R82). -/
structure Row where
  mnemonic : String
  bits     : Word
  mask     : Word
  read     : Word → Instr

/-- Bit `i` of a command word (rule R11). -/
def wordBit (w : Word) (i : Nat) : Bool := w.getLsbD i

/-- The field `imm[7:0]` (rule R81). -/
def wordImm (w : Word) : Byte := w.extractLsb' 0 8

/-- The two-bit index `imm[1:0]` of `STATUS` and `CFGRD` (rule R82). -/
def wordIndex (w : Word) : BitVec 2 := w.extractLsb' 0 2

/-- The FIFO that `f` selects (rule R154). -/
def fifoSelOf (f : Bool) : FifoSel := if f then .rx else .tx

/-- The register that `kk` selects (rule R280). -/
def cfgRegOf (k : BitVec 2) : CfgReg :=
  if k = 0 then .cd else if k = 1 then .loss else if k = 2 then .wait else .opt

/-- The rows of the FIFO commands (42_fifo.md). -/
def fifoRows : List Row :=
  [ ⟨"NOP",     0x0000, 0xFFFF, fun _ => .nop⟩,
    ⟨"TXPUSH",  0x0100, 0xFF00, fun w => .txpush (wordImm w)⟩,
    ⟨"RXPOP",   0x0200, 0xFFFF, fun _ => .rxpop⟩,
    ⟨"RXPEEK",  0x0300, 0xFFFF, fun _ => .rxpeek⟩,
    ⟨"FIFOLEN", 0x0400, 0xFFFE, fun w => .fifolen (fifoSelOf (wordBit w 0))⟩,
    ⟨"FIFOCLR", 0x0500, 0xFFFC, fun w => .fifoclr (wordBit w 0) (wordBit w 1)⟩ ]

/-- The rows of the line-control commands (45_line_control.md section 2, and `STATUS`). -/
def lineRows : List Row :=
  [ ⟨"SETPROFILE", 0x1000, 0xFFFE, fun w => .setprofile (w.extractLsb' 0 1)⟩,
    ⟨"SETDIR",     0x1100, 0xFFFC, fun w => .setdir (wordBit w 0) (wordBit w 1)⟩,
    ⟨"SETTXCAR",   0x1200, 0xFFFE, fun w => .settxcar (wordBit w 0)⟩,
    ⟨"SETRXCAR",   0x1300, 0xFFFE, fun w => .setrxcar (wordBit w 0)⟩,
    ⟨"ACKNC",      0x1400, 0xFFFF, fun _ => .acknc⟩,
    ⟨"STATUS",     0x1500, 0xFFFC, fun w => .status (wordIndex w)⟩ ]

/-- The rows of the configuration commands (45_line_control.md section 3) and of `DIAL` (43_modulator.md rule R196). -/
def configRows : List Row :=
  [ ⟨"SETCDT",  0x2000, 0xFF00, fun w => .setcdt (wordImm w)⟩,
    ⟨"SETLOSS", 0x2100, 0xFF00, fun w => .setloss (wordImm w)⟩,
    ⟨"SETWAIT", 0x2200, 0xFF00, fun w => .setwait (wordImm w)⟩,
    ⟨"SETOPT",  0x2300, 0xFFFC, fun w => .setopt (wordBit w 0) (wordBit w 1)⟩,
    ⟨"CFGRD",   0x2400, 0xFFFC, fun w => .cfgrd (cfgRegOf (wordIndex w))⟩,
    ⟨"DIAL",    0x3000, 0xFFFE, fun w => .dial (wordBit w 0)⟩ ]

/-- The opcode map of rule R86. -/
def opcodeTable : List Row := fifoRows ++ lineRows ++ configRows

/-- A row is selected when `(w AND mask) = match` (rule R86). -/
def Row.selects (r : Row) (w : Word) : Bool := w &&& r.mask == r.bits

/-- Decoding of a command word (rule R87), total on all 2^16 words. -/
def decodeCommand (w : Word) : Decoded :=
  match opcodeTable.find? (fun r => r.selects w) with
  | none =>
      .rejected (if opcodeTable.any (fun r => r.bits >>> 8 == w >>> 8) then .reservedBits else .illegalOpcode)
  | some r =>
      if r.mnemonic == "STATUS" && wordIndex w == 3 then .rejected .reservedPage else .instr (r.read w)

/-- Decoding of either port. Every sample is a legal TICK (rule R87). -/
def decode : PortWord → Decoded
  | .command w => decodeCommand w
  | .sample b  => .instr (.tick b)

/-- A command word from a byte-wide transport, which sends bits [15:8] first (20_memory.md rule R66). -/
def commandOfBytes (first second : Byte) : Word := first ++ second

/-- The two bytes of a command or response word on a byte-wide transport, in the order sent (rule R66). -/
def bytesOfWord (w : Word) : List Byte := [w.extractLsb' 8 8, w.extractLsb' 0 8]

/-- The field `f` of `FIFOLEN` (rule R154). -/
def fifoSelBit : FifoSel → BitVec 1
  | .tx => 0
  | .rx => 1

/-- The field `kk` of `CFGRD` (rule R280). -/
def cfgRegBits : CfgReg → BitVec 2
  | .cd   => 0
  | .loss => 1
  | .wait => 2
  | .opt  => 3

/-- The encoder, from the encoding column of rule R86: `op` in [15:8] and the operand fields at their places (rule R93). -/
def encode : Instr → PortWord
  | .nop          => .command (0x00#8 ++ 0#8)
  | .txpush b     => .command (0x01#8 ++ b)
  | .rxpop        => .command (0x02#8 ++ 0#8)
  | .rxpeek       => .command (0x03#8 ++ 0#8)
  | .fifolen f    => .command (0x04#8 ++ 0#7 ++ fifoSelBit f)
  | .fifoclr t r  => .command (0x05#8 ++ 0#6 ++ BitVec.ofBool r ++ BitVec.ofBool t)
  | .setprofile p => .command (0x10#8 ++ 0#7 ++ p)
  | .setdir a r   => .command (0x11#8 ++ 0#6 ++ BitVec.ofBool r ++ BitVec.ofBool a)
  | .settxcar v   => .command (0x12#8 ++ 0#7 ++ BitVec.ofBool v)
  | .setrxcar v   => .command (0x13#8 ++ 0#7 ++ BitVec.ofBool v)
  | .acknc        => .command (0x14#8 ++ 0#8)
  | .status g     => .command (0x15#8 ++ 0#6 ++ g)
  | .setcdt n     => .command (0x20#8 ++ n)
  | .setloss n    => .command (0x21#8 ++ n)
  | .setwait n    => .command (0x22#8 ++ n)
  | .setopt g u   => .command (0x23#8 ++ 0#6 ++ BitVec.ofBool u ++ BitVec.ofBool g)
  | .cfgrd k      => .command (0x24#8 ++ 0#6 ++ cfgRegBits k)
  | .dial v       => .command (0x30#8 ++ 0#7 ++ BitVec.ofBool v)
  | .tick s       => .sample s

/-- What the ports carry for an operation whose bits are `w`: 16 bits are a command word, 8 bits a sample.
No other width exists (rule R90). -/
def portWordOf (nbits w : Nat) : Option PortWord :=
  if nbits = 16 then some (.command (BitVec.ofNat 16 w))
  else if nbits = 8 then some (.sample (BitVec.ofNat 8 w))
  else none

/-- The operation of a verdict, none where the word is illegal. -/
def Decoded.toOption : Decoded → Option Instr
  | .instr i    => some i
  | .rejected _ => none

/-- The operation the decoder reads from an opcode-table word. -/
def decodeTableWord (nbits w : Nat) : Option Instr :=
  (portWordOf nbits w).bind (fun p => (decode p).toOption)

end Sys2Proof
end

