-- ==== Sys2Proof/Machine/Fetch.lean ====
section
/-! DEFINITION. Taking the next operation from the ports (20_memory.md rule R70, 30_encoding.md rule R87).
The block fetches no code (rule R21): its operations arrive at the ports, in one total order. -/

namespace Sys2Proof.Machine

/-- What the ports have for the machine. The state is the one in which the operation takes effect. -/
inductive Taken where
  | badBuild                              -- no model exists for the build (00_scope.md rule R8)
  | nothing                               -- no operation is waiting
  | reset (s : State)                     -- the reset operation (70_reset_and_hazards.md rule R341)
  | illegal (r : Reject) (s : State)      -- an illegal command word (rule R88)
  | instr (i : Instr) (s : State)         -- a legal operation
  deriving DecidableEq, Repr

/-- A verdict of the decoder, with the state in which it takes effect. -/
def Taken.ofDecoded (d : Decoded) (s : State) : Taken :=
  match d with
  | .instr i    => .instr i s
  | .rejected r => .illegal r s

/-- Take the next operation. A TICK brings the levels of the DTMF inputs with it (10_state.md rule R45). -/
def takeOp (s : State) : Taken :=
  if s.build.legal then
    match s.input with
    | [] => .nothing
    | .command w :: rest => Taken.ofDecoded (decode (.command w)) { s with input := rest }
    | .tick x a d :: rest =>
        Taken.ofDecoded (decode (.sample x)) { s with input := rest, dtmfActive := a, dtmfSample := d }
    | .reset :: rest => .reset { s with input := rest }
  else .badBuild

/-- An operation-table word as an operation at the ports: a sample comes with the DTMF inputs as they stand. -/
def State.portOp (s : State) : PortWord → PortOp
  | .command w => .command w
  | .sample b  => .tick b s.dtmfActive s.dtmfSample

/-- The operation placed ahead of the waiting ones, so that the next step takes it. -/
def State.placeFirst (s : State) (nbits w : Nat) : State :=
  match portWordOf nbits w with
  | some p => { s with input := s.portOp p :: s.input }
  | none   => s

end Sys2Proof.Machine
end

