-- ==== Sys2Proof/Machine/Step.lean ====
section
/-! DEFINITION. One step of the machine: one operation of one agent, taken whole (20_memory.md rule R70). -/

namespace Sys2Proof.Machine

/-- One step. With no operation waiting the block waits (70_reset_and_hazards.md rule R341): the state stays as it is. -/
def step (s : State) : Host.Outcome State Fault Refusal :=
  match takeOp s with
  | .badBuild    => .refused .illegalBuild
  | .nothing     => .next s
  | .reset t     => .next t.resetEvent
  | .illegal _ t => .next t.rejectCommand
  | .instr i t   => exec i t

/-- `s` with the given operation at the port it belongs to, ahead of every waiting one. -/
def State.withFetchWord (s : State) (nbits w : Nat) : State := s.placeFirst nbits w

end Sys2Proof.Machine
end

