-- ==== Sys2Proof/Machine/Assembler.lean ====
section
/-! DEFINITION. The textual form of operation streams (30_encoding.md rules R91 to R93): text to what the ports carry.
A command line goes to the host agent and a TICK line to the sample agent, in listing order.
The text is a list of characters, so that the kernel can evaluate it. -/

namespace Sys2Proof.Machine

/-- The characters of a line before a comment (rule R91: text after `;` is a comment). -/
def stripComment (line : List Char) : List Char := line.takeWhile (fun c => c != ';')

/-- Add a word, collected in reverse, to the tokens. -/
def addToken (word : List Char) (rest : List (List Char)) : List (List Char) :=
  if word.isEmpty then rest else word.reverse :: rest

/-- The tokens of a line: words between blanks; a comma and a bar are tokens of their own. -/
def tokensFrom (word : List Char) : List Char → List (List Char)
  | [] => addToken word []
  | c :: cs =>
      if c = ' ' ∨ c = '\t' then addToken word (tokensFrom [] cs)
      else if c = ',' ∨ c = '|' then addToken word ([c] :: tokensFrom [] cs)
      else tokensFrom (c :: word) cs

/-- The value of a digit in a base of at most 16, if it is one. -/
def digitOf (base : Nat) (c : Char) : Option Nat :=
  let v := if '0' ≤ c ∧ c ≤ '9' then c.toNat - '0'.toNat
    else if 'a' ≤ c ∧ c ≤ 'f' then c.toNat - 'a'.toNat + 10
    else if 'A' ≤ c ∧ c ≤ 'F' then c.toNat - 'A'.toNat + 10
    else base
  if v < base then some v else none

/-- The value of a run of digits after the value `acc`. -/
def digitsFrom (base acc : Nat) : List Char → Option Nat
  | [] => some acc
  | c :: cs => (digitOf base c).bind (fun v => digitsFrom base (acc * base + v) cs)

/-- A number: decimal, `0x` hexadecimal or `0b` binary (rule R91). -/
def numberOf : List Char → Option Nat
  | '0' :: 'x' :: c :: cs => digitsFrom 16 0 (c :: cs)
  | '0' :: 'b' :: c :: cs => digitsFrom 2 0 (c :: cs)
  | c :: cs => digitsFrom 10 0 (c :: cs)
  | [] => none

/-- A number that fits its field; one that does not is an assembly error (rule R93). -/
def fieldOf (width : Nat) (t : List Char) : Option (BitVec width) :=
  (numberOf t).bind (fun n => if n < 2 ^ width then some (BitVec.ofNat width n) else none)

/-- The numbers of a comma list, each an 8-bit field. -/
def byteList : List (List Char) → Option (List Byte)
  | [] => none
  | [t] => (fieldOf 8 t).map (fun b => [b])
  | t :: c :: ts =>
      if c = [','] then (fieldOf 8 t).bind (fun b => (byteList ts).map (fun bs => b :: bs)) else none

/-- One command as an operation stream. -/
def asOne (i : Instr) : List PortWord := [encode i]

/-- An operand that is one of two symbols, the second standing for 1. -/
def symbolBit (zero one : String) (t : List Char) : Option Bool :=
  if t = zero.toList then some false else if t = one.toList then some true else none

/-- The operands of `FIFOCLR` (rule R91): `NONE`, `TX`, `RX`, `BOTH`. -/
def fifoclrOf (t : List Char) : Option Instr :=
  if t = "NONE".toList then some (.fifoclr false false)
  else if t = "TX".toList then some (.fifoclr true false)
  else if t = "RX".toList then some (.fifoclr false true)
  else if t = "BOTH".toList then some (.fifoclr true true)
  else none

/-- The register names of `CFGRD` (rule R91). -/
def cfgrdOf (t : List Char) : Option Instr :=
  if t = "CD".toList then some (.cfgrd .cd)
  else if t = "LOSS".toList then some (.cfgrd .loss)
  else if t = "WAIT".toList then some (.cfgrd .wait)
  else if t = "OPT".toList then some (.cfgrd .opt)
  else none

/-- The flags of `SETOPT` (rule R91): `0`, or `IGNORE` and `FOLLOWS` separated by a bar. -/
def setoptOf (ts : List (List Char)) : Option Instr :=
  if ts = ["0".toList] then some (.setopt false false)
  else if ts = ["IGNORE".toList] then some (.setopt true false)
  else if ts = ["FOLLOWS".toList] then some (.setopt false true)
  else if ts = ["IGNORE".toList, ['|'], "FOLLOWS".toList] then some (.setopt true true)
  else if ts = ["FOLLOWS".toList, ['|'], "IGNORE".toList] then some (.setopt true true)
  else none

/-- The operands of `SETDIR` (rule R91): `ORIG` or `ANS`, with `REV` after a comma or not. -/
def setdirOf (ts : List (List Char)) : Option Instr :=
  match ts with
  | [d] => (symbolBit "ORIG" "ANS" d).map (fun a => .setdir a false)
  | [d, c, r] =>
      if c = [','] ∧ r = "REV".toList then (symbolBit "ORIG" "ANS" d).map (fun a => .setdir a true) else none
  | _ => none

/-- The commands without an operand, and the pseudo-operations without one (rules R86 and R92). -/
def bareLine (m : List Char) : Option (List PortWord) :=
  if m = "NOP".toList then some (asOne .nop)
  else if m = "RXPOP".toList then some (asOne .rxpop)
  else if m = "RXPEEK".toList then some (asOne .rxpeek)
  else if m = "ACKNC".toList then some (asOne .acknc)
  else if m = "LISTEN".toList then some (asOne (.setrxcar true))
  else if m = "DEAF".toList then some (asOne (.setrxcar false))
  else if m = "FLUSH".toList then some (asOne (.fifoclr true true))
  else if m = "ORIGINATE".toList then some (asOne (.setdir false false))
  else if m = "ANSWER".toList then some (asOne (.setdir true false))
  else none

/-- The lines with one operand token (rules R86 and R91). -/
def unaryLine (m t : List Char) : Option (List PortWord) :=
  if m = "TXPUSH".toList then (fieldOf 8 t).map (fun b => asOne (.txpush b))
  else if m = "FIFOLEN".toList then (symbolBit "TX" "RX" t).map (fun f => asOne (.fifolen (fifoSelOf f)))
  else if m = "FIFOCLR".toList then (fifoclrOf t).map asOne
  else if m = "SETPROFILE".toList then
    (symbolBit "BELL103" "V21" t).map (fun p => asOne (.setprofile (BitVec.ofBool p)))
  else if m = "SETTXCAR".toList then (symbolBit "OFF" "ON" t).map (fun v => asOne (.settxcar v))
  else if m = "SETRXCAR".toList then (symbolBit "OFF" "ON" t).map (fun v => asOne (.setrxcar v))
  else if m = "DIAL".toList then (symbolBit "OFF" "ON" t).map (fun v => asOne (.dial v))
  else if m = "STATUS".toList then
    (fieldOf 2 t).bind (fun g => if g = 3 then none else some (asOne (.status g)))
  else if m = "SETCDT".toList then (fieldOf 8 t).map (fun n => asOne (.setcdt n))
  else if m = "SETLOSS".toList then (fieldOf 8 t).map (fun n => asOne (.setloss n))
  else if m = "SETWAIT".toList then (fieldOf 8 t).map (fun n => asOne (.setwait n))
  else if m = "CFGRD".toList then (cfgrdOf t).map asOne
  else if m = "TICK".toList then (fieldOf 8 t).map (fun x => asOne (.tick x))
  else if m = ".word".toList then (fieldOf 16 t).map (fun w => [.command w])
  else none

/-- The lines with a list of operands: `SETDIR`, `SETOPT`, and the pseudo-operations `SEND` and `TICKS` (rule R92). -/
def listLine (m : List Char) (ts : List (List Char)) : Option (List PortWord) :=
  if m = "SETDIR".toList then (setdirOf ts).map asOne
  else if m = "SETOPT".toList then (setoptOf ts).map asOne
  else if m = "SEND".toList then (byteList ts).map (fun bs => bs.map (fun b => encode (.txpush b)))
  else if m = "TICKS".toList then
    match ts with
    | [n, c, x] =>
        if c = [','] then
          (numberOf n).bind (fun k => (fieldOf 8 x).map (fun b => List.replicate k (encode (.tick b))))
        else none
    | _ => none
  else none

/-- One line (rule R91): an empty line is no operation, and none is an assembly error (rule R93). -/
def assembleLine (line : List Char) : Option (List PortWord) :=
  match tokensFrom [] (stripComment line) with
  | [] => some []
  | [m] => bareLine m
  | [m, t] => (unaryLine m t).or (listLine m [t])
  | m :: ts => listLine m ts

/-- A listing: its lines in order, in the single-stream order of rule R91. -/
def assemble : List (List Char) → Option (List PortWord)
  | [] => some []
  | l :: ls => (assembleLine l).bind (fun ws => (assemble ls).map (fun rest => ws ++ rest))

end Sys2Proof.Machine
end

