-- ==== Sys2Proof/Machine/Events.lean ====
section
/-! DEFINITION. The events E1 to E7 (60_exceptions.md rule R311): which one an operation meets, read from the state it
finds. No code of an event is stored in the machine; the names serve statements and tests. -/

namespace Sys2Proof.Machine

/-- The seven events of rule R311. -/
inductive Event where
  | illegalCmd      -- E1
  | txFifoFull      -- E2
  | rxOverflow      -- E3
  | framingReject   -- E4
  | stopFail        -- E5
  | acqTimeout      -- E6
  | carrierLoss     -- E7
  deriving DecidableEq, Repr

/-- The event that `RxFrame(bit)` meets (rules R314 to R318); at most one, since a TICK runs one state's rule (rule R320). -/
def rxEvent (bit : Bool) (s : State) : Option Event :=
  let t := countDecision bit s
  match s.rxState with
  | .wait =>
      if s.carrierLocked && s.dcdFollows && s.rxHist != 0xFF && decide (s.lossCnt.toNat ≤ 1) then some .carrierLoss
      else none
  | .preamble =>
      if s.spb / 2 ≤ t.rxCnt.toNat ∧ s.spb / 8 < t.rxBitsum.toNat then some .framingReject else none
  | .startBit =>
      if s.spb ≤ t.rxCnt.toNat ∧ s.spb / 4 < t.rxBitsum.toNat then some .framingReject else none
  | .dataBit => none
  | .stopBit =>
      if s.spb / 2 ≤ t.rxCnt.toNat then
        if s.spb / 4 < t.rxBitsum.toNat then (if s.rxFull then some .rxOverflow else none) else some .stopFail
      else none
  | .carrier =>
      if s.cdTotal ≤ (s.nextStreak bit).toNat then none
      else if s.nextWait = 0 then some .acqTimeout else none
  | .noCarrier => none
  | .nop => none

/-- The event that a TICK meets: none in the transmit part, at most one in the receive part (rule R320). -/
def tickEvent (raw : Byte) (s : State) : Option Event :=
  let c := signalChain raw (tickTransmit s)
  rxEvent c.decision (pushHistory c.decision c)

/-- The event that an operation meets (rules R312, R313 and R320). -/
def instrEvent (i : Instr) (s : State) : Option Event :=
  match i with
  | .txpush _ => if s.txFull then some .txFifoFull else none
  | .status g => if g = 3 then some .illegalCmd else none
  | .tick x   => tickEvent x s
  | .nop | .rxpop | .rxpeek | .fifolen _ | .fifoclr _ _ => none
  | .setprofile _ | .setdir _ _ | .settxcar _ | .setrxcar _ | .acknc => none
  | .setcdt _ | .setloss _ | .setwait _ | .setopt _ _ | .cfgrd _ | .dial _ => none

/-- The event that a step meets. -/
def stepEvent (s : State) : Option Event :=
  match takeOp s with
  | .badBuild    => none
  | .nothing     => none
  | .reset _     => none
  | .illegal _ _ => some .illegalCmd
  | .instr i t   => instrEvent i t

end Sys2Proof.Machine
end

