-- ==== Sys2Proof/Safety.lean ====
section
/-! DEFINITION. What claims about runs use: the invariants of the machine, and what a run lets an observer see. -/

namespace Sys2Proof.Machine

/-- The memories are in canonical form and inside their sizes, and the FIFO indices fit their widths
(10_state.md rule R44, 20_memory.md rule R61, 42_fifo.md rule R148). -/
def State.MemInv (s : State) : Prop :=
  s.txf.wf s.build.txFifoBits = true ∧ s.rxf.wf s.build.rxFifoBits = true ∧
    memWf dlFill s.build.maxQueuelen s.dl = true

/-- The ranges of the TX engine (10_state.md rules R31, R32, R36 and R37).
`TX_CNT` is below `SPB` of one of the profiles, since `SETPROFILE` may change `SPB` under a running counter. -/
structure State.TxInv (s : State) : Prop where
  /-- Codes 6 and 7 are never reached (rule R31). -/
  stateCode : s.txState ≠ .unused6 ∧ s.txState ≠ .unused7
  /-- `TX_ACTIVE` is 1 exactly outside WAIT (rules R32, R181 and R186). -/
  active    : s.txActive = true ↔ s.txState ≠ .wait
  /-- `TX_CNT` counts 0 .. `SPB` - 1 (rule R37). -/
  cnt       : s.txCnt.toNat < s.build.maxSpb
  /-- `TX_BITS` never exceeds `max(CARRIER_BITS, dataBits)` (rule R36). -/
  bits      : s.txBits.toNat ≤ max s.build.carrierBits s.build.maxDataBits
  /-- In PREAMBLE the count is still below `CARRIER_BITS` (rule R182). -/
  preamble  : s.txState = .preamble → s.txBits.toNat < s.build.carrierBits

/-- A state in which the RX framer works on a line it takes to carry data (rule R220). -/
def RxState.framing : RxState → Bool
  | .wait      => true
  | .preamble  => true
  | .startBit  => true
  | .dataBit   => true
  | .stopBit   => true
  | .carrier   => false
  | .noCarrier => false
  | .nop       => false

/-- The ranges of the RX framer (10_state.md rules R40 and R41, 44_demodulator.md rule R227). -/
structure State.RxInv (s : State) : Prop where
  /-- A window holds at most as many HIGH decisions as decisions. -/
  bitsum   : s.rxBitsum.toNat ≤ s.rxCnt.toNat
  /-- `RX_CNT` never exceeds `SPB` (rule R40). -/
  cnt      : s.rxCnt.toNat ≤ s.build.maxSpb
  /-- The half windows (rules R224 and R228). -/
  half     : s.rxState = .preamble ∨ s.rxState = .stopBit → s.rxCnt.toNat < s.build.maxSpb / 2
  /-- The full windows (rules R225 and R226). -/
  full     : s.rxState = .startBit ∨ s.rxState = .dataBit → s.rxCnt.toNat < s.build.maxSpb
  /-- `RX_BITS` counts 0 .. `dataBits` (rule R41). -/
  bits     : s.rxBits.toNat ≤ s.build.maxDataBits
  /-- In DATA_BIT a bit is still to come (rule R226). -/
  dataBits : s.rxState = .dataBit → s.rxBits.toNat < s.build.maxDataBits
  /-- Only the bits received so far are set (rule R227). -/
  byte     : s.rxByte.toNat < 2 ^ s.rxBits.toNat

/-- The carrier detector (10_state.md rule R43, 45_line_control.md rules R262 and R263). -/
structure State.CarrierInv (s : State) : Prop where
  /-- The carrier is locked exactly in the framing states (rules R221, R262, R263 and R273). -/
  locked : s.carrierLocked = true ↔ s.rxState.framing = true
  /-- A failed acquisition leaves NOP, until `SETRXCAR` (rules R263 and R273). -/
  failed : s.acqFailed = true → s.rxState = .nop
  /-- In CARRIER the wait timer has not run out (rule R263). -/
  timer  : s.rxState = .carrier → s.waitCnt ≠ 0

/-- The ranges of the filter cells (44_demodulator.md rules R213 and R216), in which no `wraps16` wraps. -/
structure State.IirInv (s : State) : Prop where
  x0 : -4064 ≤ s.iirX0.toInt ∧ s.iirX0.toInt ≤ 4096
  x1 : -4064 ≤ s.iirX1.toInt ∧ s.iirX1.toInt ≤ 4096
  y0 : -16256 ≤ s.iirY0.toInt ∧ s.iirY0.toInt ≤ 16384
  y1 : -16256 ≤ s.iirY1.toInt ∧ s.iirY1.toInt ≤ 16384

/-- Everything the rules keep true (60_exceptions.md rule R330: every other field's range is closed under the rules). -/
structure State.Inv (s : State) : Prop where
  build   : s.build.legal = true
  mem     : s.MemInv
  tx      : s.TxInv
  rx      : s.RxInv
  carrier : s.CarrierInv
  iir     : s.IirInv

/-- What an observer sees of one operation (70_reset_and_hazards.md rule R356). -/
inductive Observed where
  | sample (out : Byte) (send : Option Byte)
  | response (w : Word)
  deriving DecidableEq, Repr

/-- What a step from `s` to `t` shows: a TICK its output sample and its `dtmf_send` event, a command its response. -/
def observedOf (s t : State) : List Observed :=
  match s.input with
  | .tick _ _ _ :: _ => [.sample t.txSample t.dtmfSend]
  | .command _ :: _  => [.response t.rsp]
  | .reset :: _      => []
  | []               => []

/-- The observable result of `n` steps (rule R356): what was seen, and the final state. -/
def observe : Nat → State → Option (List Observed × State)
  | 0, s => some ([], s)
  | n + 1, s =>
      match step s with
      | .next t    => (observe n t).map (fun r => (observedOf s t ++ r.1, r.2))
      | .fault _   => none
      | .refused _ => none

/-- The state that an outcome goes on with, if it goes on. -/
def nextState (o : Host.Outcome State Fault Refusal) : Option State :=
  match o with
  | .next t    => some t
  | .fault _   => none
  | .refused _ => none

/-- The control registers that only host commands write (10_state.md rules R23 to R28). -/
structure ControlView where
  cfgProfile     : BitVec 1
  cfgDir         : BitVec 2
  cfgCdTenths    : BitVec 8
  cfgLossTenths  : BitVec 8
  cfgWaitSeconds : BitVec 8
  cfgOpt         : BitVec 2
  deriving DecidableEq, Repr

/-- The TX engine with its FIFO (rules R31 to R37 and R44). -/
structure TxView where
  txState  : TxState
  txActive : Bool
  txSym    : Bool
  txByte   : BitVec 8
  txSr     : BitVec 8
  txBits   : BitVec 8
  txPhase  : BitVec 16
  txCnt    : BitVec 8
  txf      : Fifo
  deriving DecidableEq, Repr

/-- The RX signal chain: the delay line, the filter and the decision history (rules R39, R42 and R44). -/
structure ChainView where
  rxHist : BitVec 8
  iirX0  : BitVec 16
  iirX1  : BitVec 16
  iirY0  : BitVec 16
  iirY1  : BitVec 16
  dl     : List Host.Cell
  deriving DecidableEq, Repr

/-- The RX framer with its FIFO, and the carrier detector (rules R38, R40, R41, R43 and R44). -/
structure FramerView where
  rxState       : RxState
  rxBitsum      : BitVec 8
  rxCnt         : BitVec 8
  rxByte        : BitVec 8
  rxBits        : BitVec 4
  carrierLocked : Bool
  cdStreak      : BitVec 24
  waitCnt       : BitVec 24
  lossCnt       : BitVec 24
  acqFailed     : Bool
  rxf           : Fifo
  deriving DecidableEq, Repr

def State.controlView (s : State) : ControlView :=
  { cfgProfile := s.cfgProfile, cfgDir := s.cfgDir, cfgCdTenths := s.cfgCdTenths, cfgLossTenths := s.cfgLossTenths,
    cfgWaitSeconds := s.cfgWaitSeconds, cfgOpt := s.cfgOpt }

def State.txView (s : State) : TxView :=
  { txState := s.txState, txActive := s.txActive, txSym := s.txSym, txByte := s.txByte, txSr := s.txSr,
    txBits := s.txBits, txPhase := s.txPhase, txCnt := s.txCnt, txf := s.txf }

def State.chainView (s : State) : ChainView :=
  { rxHist := s.rxHist, iirX0 := s.iirX0, iirX1 := s.iirX1, iirY0 := s.iirY0, iirY1 := s.iirY1, dl := s.dl }

def State.framerView (s : State) : FramerView :=
  { rxState := s.rxState, rxBitsum := s.rxBitsum, rxCnt := s.rxCnt, rxByte := s.rxByte, rxBits := s.rxBits,
    carrierLocked := s.carrierLocked, cdStreak := s.cdStreak, waitCnt := s.waitCnt, lossCnt := s.lossCnt,
    acqFailed := s.acqFailed, rxf := s.rxf }

/-- The machine after the TICKs of a list of input samples, with the DTMF inputs held. -/
def tickRun (xs : List Byte) (s : State) : State :=
  xs.foldl (fun t x => (nextState (exec (.tick x) t)).getD t) s

/-- The receiver after a stream of decisions fed straight into the framer, as in the vectors of 44_demodulator.md rule R234. -/
def decisionRun (bits : List Bool) (s : State) : State := bits.foldl (fun t b => takeDecision b t) s

end Sys2Proof.Machine
end

