-- ==== Sys2Proof/Certificates/Slice0/Obligations.lean ====
section
/-! DEFINITION. The statements for the provers. Each docstring names the rules of spec/ it formalises.
A TICK is stated through the state it leaves; the decision it took is bit 0 of the new history (44_demodulator.md rule R218). -/

open Sys2Proof Sys2Proof.Machine

/-! Decoding and encoding. -/

/-- Every well-formed operation decodes from its own encoding, at every operand value (R86, R87, R93). -/
def Obligations.DecodeOfEncodeIsIdentity : Prop :=
  ∀ i : Instr, i.wellFormed = true → decode (encode i) = .instr i

/-- A port word that decodes is the encoding of the operation it decodes to, which is well-formed: no bit of a legal
word is dropped (R86, R87). -/
def Obligations.DecodedWordsReencode : Prop :=
  ∀ (p : PortWord) (i : Instr), decode p = .instr i → encode i = p ∧ i.wellFormed = true

/-- The `op` of a command word (R81), as a number. -/
def Sys2Proof.Machine.opOf (w : Word) : Nat := w.toNat / 256

/-- The `imm` of a command word (R81), as a number. -/
def Sys2Proof.Machine.immOf (w : Word) : Nat := w.toNat % 256

/-- The ranges of `op` that R88 lists as not in the table. -/
def Sys2Proof.Machine.unusedOp (op : Nat) : Prop :=
  (0x06 ≤ op ∧ op ≤ 0x0F) ∨ (0x16 ≤ op ∧ op ≤ 0x1F) ∨ (0x25 ≤ op ∧ op ≤ 0x2F) ∨ (0x31 ≤ op)

/-- How many values of `imm` the row of `op` admits, by the masks of R86; `STATUS` with page 3 is counted among them. -/
def Sys2Proof.Machine.immSize (op : Nat) : Nat :=
  if op = 0x01 ∨ op = 0x20 ∨ op = 0x21 ∨ op = 0x22 then 256
  else if op = 0x05 ∨ op = 0x11 ∨ op = 0x15 ∨ op = 0x23 ∨ op = 0x24 then 4
  else if op = 0x04 ∨ op = 0x10 ∨ op = 0x12 ∨ op = 0x13 ∨ op = 0x30 then 2
  else 1

/-- Every command word has the verdict of R87 and R88: unused opcode, reserved operand bits, `STATUS` page 3, or legal. -/
def Obligations.EveryCommandWordHasItsVerdict : Prop :=
  ∀ w : Word,
    (unusedOp (opOf w) → decodeCommand w = .rejected .illegalOpcode) ∧
    (¬ unusedOp (opOf w) → immSize (opOf w) ≤ immOf w → decodeCommand w = .rejected .reservedBits) ∧
    (w = 0x1503 → decodeCommand w = .rejected .reservedPage) ∧
    (¬ unusedOp (opOf w) → immOf w < immSize (opOf w) → w ≠ 0x1503 → ∃ i, decodeCommand w = .instr i)

/-- Of the 65536 command words, 1057 are legal (R87). -/
def Obligations.LegalCommandWordsNumber1057 : Prop :=
  (List.range 65536).countP (fun n => (decodeTableWord 16 n).isSome) = 1057

/-- Words of every family, written out from the encoding column of R86 and the examples of R93 and of 95_test_vectors.md. -/
def Obligations.SpecWordsDecode : Prop :=
  decodeCommand 0b0000000101000001 = .instr (.txpush 0x41) ∧
  decodeCommand 0b0000010100000011 = .instr (.fifoclr true true) ∧
  decodeCommand 0b0000010100000010 = .instr (.fifoclr false true) ∧
  decodeCommand 0b0001000100000010 = .instr (.setdir false true) ∧
  decodeCommand 0b0001000100000001 = .instr (.setdir true false) ∧
  decodeCommand 0b0001010100000001 = .instr (.status 1) ∧
  decodeCommand 0b0010000100001010 = .instr (.setloss 10) ∧
  decodeCommand 0b0010001100000010 = .instr (.setopt false true) ∧
  decodeCommand 0b0010010000000011 = .instr (.cfgrd .opt) ∧
  decodeCommand 0b0011000000000001 = .instr (.dial true) ∧
  decode (.sample 0b10000001) = .instr (.tick 0x81)

/-! The step. -/

/-- A step runs the decoded operation: of the host agent with the word taken from the input, of the sample agent with
the levels of the DTMF inputs that came with the sample (R22, R45, R70, R87). -/
def Obligations.StepRunsDecodedOperation : Prop :=
  (∀ (s : State) (w : Word) (rest : List PortOp) (i : Instr),
    s.build.legal = true → s.input = .command w :: rest → decode (.command w) = .instr i →
    step s = exec i { s with input := rest }) ∧
  (∀ (s : State) (x : Byte) (a : Bool) (d : Byte) (rest : List PortOp) (i : Instr),
    s.build.legal = true → s.input = .tick x a d :: rest → decode (.sample x) = .instr i →
    step s = exec i { s with input := rest, dtmfActive := a, dtmfSample := d })

/-- Event E1: an illegal command word is answered 0x8000 and changes nothing else (R88, R312). -/
def Obligations.IllegalWordIsAnsweredAndIgnored : Prop :=
  ∀ (s : State) (w : Word) (rest : List PortOp) (r : Reject),
    s.build.legal = true → s.input = .command w :: rest → decodeCommand w = .rejected r →
    step s = .next { s with input := rest, rsp := 0x8000 }

/-- With no operation waiting the machine waits, and the reset operation restores the reset values, keeping the build,
the operations still to come and the levels at the DTMF inputs (R341).
That a waiting machine steps to itself, and what reset keeps, is the model's reading (log entries 4 and 5). -/
def Obligations.IdleAndResetSteps : Prop :=
  (∀ s : State, s.build.legal = true → s.input = [] → step s = .next s) ∧
  (∀ (s : State) (rest : List PortOp), s.build.legal = true → s.input = .reset :: rest →
    step s = .next
      { State.resetOf s.build with input := rest, dtmfActive := s.dtmfActive, dtmfSample := s.dtmfSample })

/-- The ranges of R9 for one ToneSet. -/
def Sys2Proof.Machine.toneSetInRange (b : Build) (t : ToneSet) : Prop :=
  1 ≤ t.queuelen ∧ t.queuelen ≤ b.maxQueuelen ∧ 0 < t.spaceHz ∧ t.spaceHz < b.sampleRate / 2 ∧
    0 < t.markHz ∧ t.markHz < b.sampleRate / 2

/-- The ranges of R8 and R9 for one profile. -/
def Sys2Proof.Machine.profileInRange (b : Build) (p : Profile) : Prop :=
  toneSetInRange b p.originating ∧ toneSetInRange b p.answering ∧ 1 ≤ p.dataBits ∧ p.dataBits ≤ 8 ∧
    4 ≤ b.sampleRate / p.baud ∧ b.sampleRate / p.baud ≤ 255

/-- The ranges of R8 and R9 for a build. -/
def Sys2Proof.Machine.buildInRange (b : Build) : Prop :=
  1200 ≤ b.sampleRate ∧ b.sampleRate ≤ 65535 ∧ 1 ≤ b.txFifoBits ∧ b.txFifoBits ≤ 8 ∧
    1 ≤ b.rxFifoBits ∧ b.rxFifoBits ≤ 8 ∧ 1 ≤ b.maxQueuelen ∧ b.maxQueuelen ≤ 255 ∧
    2 ≤ b.prodShift ∧ b.prodShift ≤ 7 ∧ 1 ≤ b.yShift ∧ b.yShift ≤ 7 ∧
    1 ≤ b.carrierBits ∧ b.carrierBits ≤ 255 ∧ profileInRange b b.profile0 ∧ profileInRange b b.profile1

/-- A step refuses exactly the builds outside the ranges of R8 and R9, and on every other build it completes
(R8, R9, R19, R344).
That `SAMPLE_RATE/2` is floor division, and that a profile with baud 0 is outside its range, is log entry 9; that the step
is what refuses, under this name, is log entry 11. -/
def Obligations.StepCompletesExactlyOnLegalBuilds : Prop :=
  ∀ s : State,
    (s.build.legal = true ↔ buildInRange s.build) ∧
    (¬ buildInRange s.build → step s = .refused .illegalBuild) ∧
    (buildInRange s.build → ∃ t, step s = .next t)

/-- Every operation completes in every state: there is no fault, no trap and no refusal (R19, R113, R310). -/
def Obligations.EveryOperationCompletes : Prop :=
  ∀ (i : Instr) (s : State), ∃ t, exec i s = .next t

/-! Reset. -/

/-- The reset values that R340 states, and the derived values it lists. -/
def Obligations.ResetValues : Prop :=
  State.reset.cfgProfile = 0 ∧ State.reset.cfgDir = 0b00 ∧ State.reset.cfgCdTenths = 6 ∧
  State.reset.cfgLossTenths = 14 ∧ State.reset.cfgWaitSeconds = 50 ∧ State.reset.cfgOpt = 0b10 ∧
  State.reset.txCarrierOn = false ∧ State.reset.dialMode = false ∧
  State.reset.txView =
    { txState := .wait, txActive := false, txSym := true, txByte := 0, txSr := 0, txBits := 0, txPhase := 0,
      txCnt := 0, txf := State.reset.txf } ∧
  State.reset.framerView =
    { rxState := .nop, rxBitsum := 0, rxCnt := 0, rxByte := 0, rxBits := 0, carrierLocked := false, cdStreak := 0,
      waitCnt := 0, lossCnt := 0, acqFailed := false, rxf := State.reset.rxf } ∧
  State.reset.rxHist = 0x00 ∧ State.reset.iirX0 = 0 ∧ State.reset.iirX1 = 0 ∧ State.reset.iirY0 = 0 ∧
  State.reset.iirY1 = 0 ∧
  State.reset.txf.inIdx = 0 ∧ State.reset.txf.outIdx = 0 ∧ State.reset.rxf.inIdx = 0 ∧ State.reset.rxf.outIdx = 0 ∧
  (∀ k, k < 8 → State.reset.dlRead k = 0x80) ∧
  State.reset.txSample = 0x80 ∧ State.reset.rsp = 0x0000 ∧ State.reset.dcd = false ∧
  State.reset.phaseStep false = 7305 ∧ State.reset.phaseStep true = 8670 ∧ State.reset.queuelen = 8 ∧
  State.reset.polarity = false ∧ State.reset.spb = 32 ∧ State.reset.dataBits = 8 ∧ State.reset.cdTotal = 5400 ∧
  State.reset.lossSamples = 13440 ∧ State.reset.waitSamples = 480000

/-- The reset state of every legal build meets every invariant (R342). -/
def Obligations.ResetMeetsTheInvariants : Prop :=
  ∀ b : Build, b.legal = true → (State.resetOf b).Inv

/-! The wave table and the phase steps. -/

/-- The 64 normative values of R120. -/
def Sys2Proof.Machine.quarterSine : List Nat :=
  [2, 5, 8, 11, 14, 17, 20, 23] ++ [26, 29, 32, 35, 38, 41, 44, 47] ++
  [50, 53, 56, 58, 61, 64, 67, 69] ++ [72, 74, 77, 79, 82, 84, 86, 89] ++
  [91, 93, 95, 97, 99, 101, 103, 105] ++ [106, 108, 110, 111, 113, 114, 115, 117] ++
  [118, 119, 120, 121, 122, 123, 124, 124] ++ [125, 125, 126, 126, 127, 127, 127, 127]

/-- Every value of `Wave`, quadrant by quadrant from the 64 values of R120; its corner values and worked values, its symmetry about 0x80, where it reaches its maximum and its minimum,
and that 0x80 and 0 are never produced (R120, R121, R122, R123); and `StepFor` of every tone (R126). -/
def Obligations.WaveAndStepVectors : Prop :=
  (∀ i, i < 64 →
    (wave (BitVec.ofNat 8 i)).toNat = 0x80 + quarterSine.getD i 0 ∧
    (wave (BitVec.ofNat 8 (64 + i))).toNat = 0x80 + quarterSine.getD (63 - i) 0 ∧
    (wave (BitVec.ofNat 8 (128 + i))).toNat = 0x80 - quarterSine.getD i 0 ∧
    (wave (BitVec.ofNat 8 (192 + i))).toNat = 0x80 - quarterSine.getD (63 - i) 0) ∧
  wave 0x00 = 130 ∧ wave 0x3F = 255 ∧ wave 0x40 = 255 ∧ wave 0x7F = 130 ∧ wave 0x80 = 126 ∧ wave 0xBF = 1 ∧
  wave 0xC0 = 1 ∧ wave 0xFF = 126 ∧ wave 0x95 = 64 ∧ wave 0x55 = 238 ∧
  (∀ p : Byte, (wave p).toNat + (wave (p ^^^ 0x80)).toNat = 256 ∧ wave p ≠ 0x80 ∧ wave p ≠ 0 ∧
    (wave p = 255 ↔ 0x3C ≤ p.toNat ∧ p.toNat ≤ 0x43) ∧ (wave p = 1 ↔ 0xBC ≤ p.toNat ∧ p.toNat ≤ 0xC3)) ∧
  stepFor 9600 1070 = 7305 ∧ stepFor 9600 1270 = 8670 ∧ stepFor 9600 2025 = 13824 ∧ stepFor 9600 2225 = 15189 ∧
  stepFor 9600 1180 = 8055 ∧ stepFor 9600 980 = 6690 ∧ stepFor 9600 1850 = 12629 ∧ stepFor 9600 1650 = 11264

/-- `StepFor(f)` is `f * 65536 / SAMPLE_RATE` rounded to the nearest integer, half up, and below 32768, at every legal
sample rate (R125). -/
def Obligations.StepForRoundsHalfUp : Prop :=
  ∀ sr f : Nat, 1200 ≤ sr → sr ≤ 65535 → f < sr / 2 →
    (stepFor sr f).toNat < 32768 ∧
    2 * sr * (stepFor sr f).toNat ≤ 2 * (f * 65536) + sr ∧
    2 * (f * 65536) + sr < 2 * sr * (stepFor sr f).toNat + 2 * sr

/-- The timer constants of R47 to R49 fit 24 bits on every legal build, `CD_TOTAL` is at least 1, and it is the configured
time less one sixteenth. -/
def Obligations.TimerConstantsFitTheirCounters : Prop :=
  ∀ s : State, s.build.legal = true →
    1 ≤ s.cdTotal ∧ s.cdTotal < 2 ^ 24 ∧ s.lossSamples < 2 ^ 24 ∧ s.waitSamples < 2 ^ 24 ∧
    s.lossSamples = s.cfgLossTenths.toNat * s.build.sampleRate / 10 ∧
    s.waitSamples = s.cfgWaitSeconds.toNat * s.build.sampleRate ∧
    (∀ n, n = s.cfgCdTenths.toNat * s.build.sampleRate / 10 → s.cdTotal = max 1 (n - n / 16))

/-! The FIFOs. -/

/-- `Len` lies in 0 .. CAP - 1; it is 0 exactly when `Empty` and CAP - 1 exactly when `Full`, which are never both true;
the stored bytes number `Len` (R143, R148). -/
def Obligations.FifoLengthBounds : Prop :=
  ∀ (bits : Nat) (f : Fifo), 1 ≤ bits → bits ≤ 8 →
    f.len bits ≤ 2 ^ bits - 1 ∧
    (f.len bits = 0 ↔ f.isEmpty bits = true) ∧
    (f.len bits = 2 ^ bits - 1 ↔ f.isFull bits = true) ∧
    ¬ (f.isEmpty bits = true ∧ f.isFull bits = true) ∧
    (f.contents bits).length = f.len bits

/-- `TryPush` on a FIFO that is not full puts the byte behind the stored ones and succeeds, writing the entry at `IN` and no
other and advancing `IN` alone; on a full FIFO it fails and changes nothing (R144, R148). -/
def Obligations.FifoPushAppends : Prop :=
  ∀ (bits : Nat) (f : Fifo) (b : Byte), 1 ≤ bits → bits ≤ 8 → f.wf bits = true →
    (f.isFull bits = false →
      f.pushOk bits = true ∧ (f.push bits b).contents bits = f.contents bits ++ [b] ∧
      (f.push bits b).len bits = f.len bits + 1 ∧ (f.push bits b).wf bits = true ∧
      (f.push bits b).inPos bits = (f.inPos bits + 1) % 2 ^ bits ∧ (f.push bits b).outIdx = f.outIdx ∧
      memRead fifoFill (f.push bits b).buf (f.inPos bits) = b ∧
      (∀ a, a ≠ f.inPos bits → memRead fifoFill (f.push bits b).buf a = memRead fifoFill f.buf a)) ∧
    (f.isFull bits = true → f.pushOk bits = false ∧ f.push bits b = f)

/-- `Pop` and `Peek` return the oldest byte, the entry at `OUT`, and `Pop` removes it by advancing `OUT` alone; on an empty
FIFO both return 0x00 and change nothing (R145, R146, R148). -/
def Obligations.FifoPopRemovesOldest : Prop :=
  ∀ (bits : Nat) (f : Fifo), 1 ≤ bits → bits ≤ 8 → f.wf bits = true →
    (f.contents bits = [] → f.peek bits = 0x00 ∧ f.pop bits = f) ∧
    (∀ b rest, f.contents bits = b :: rest →
      f.peek bits = b ∧ memRead fifoFill f.buf (f.outPos bits) = b ∧ (f.pop bits).contents bits = rest ∧
      (f.pop bits).outPos bits = (f.outPos bits + 1) % 2 ^ bits ∧ (f.pop bits).inIdx = f.inIdx ∧
      (f.pop bits).buf = f.buf ∧ (f.pop bits).wf bits = true)

/-- From an empty FIFO, N pushes with N at most CAP - 1 store the N bytes in order, and the next push after CAP - 1 of them
fails (R143, R144; 95_test_vectors.md S2). -/
def Obligations.FifoHoldsCapacityLessOne : Prop :=
  ∀ (bits : Nat) (f : Fifo) (bs : List Byte), 1 ≤ bits → bits ≤ 8 → f.wf bits = true → f.isEmpty bits = true →
    bs.length ≤ 2 ^ bits - 1 →
    (bs.foldl (fun g b => g.push bits b) f).contents bits = bs ∧
    (bs.foldl (fun g b => g.push bits b) f).len bits = bs.length ∧
    (bs.length = 2 ^ bits - 1 → (bs.foldl (fun g b => g.push bits b) f).pushOk bits = false)

/-! The FIFO commands. -/

/-- The commands without side effects (R68). -/
def Sys2Proof.Machine.readingCommand : Instr → Prop
  | .nop => True
  | .rxpeek => True
  | .fifolen _ => True
  | .status _ => True
  | .cfgrd _ => True
  | _ => False

/-- `NOP`, `RXPEEK`, `FIFOLEN`, `STATUS` and `CFGRD` change nothing but the response, and the same command issued again
returns the same response (R68); `NOP` answers 0x0000 (R150). -/
def Obligations.ReadingCommandsAreIdempotent : Prop :=
  (∀ s : State, exec .nop s = .next { s with rsp := 0x0000 }) ∧
  (∀ (i : Instr) (s : State), readingCommand i →
    ∃ t, exec i s = .next t ∧ t = { s with rsp := t.rsp } ∧ exec i t = .next t)

/-- `TXPUSH` stores its byte behind the waiting ones and answers `FLAG` 1; the store is the entry at `TXF_IN`, every other
entry of the buffer reads as before and nothing else changes. With `Full(TXF)` it is event E2: the answer is 0x0000 and
nothing else changes (R144, R151, R313). -/
def Obligations.TxpushStoresItsByteOrReportsFull : Prop :=
  ∀ (b : Byte) (s : State), s.build.legal = true → s.txf.wf s.build.txFifoBits = true →
    (s.txFull = false →
      ∃ t, exec (.txpush b) s = .next t ∧ t = { s with txf := t.txf, rsp := 0x0100 } ∧
        t.txf.contents s.build.txFifoBits = s.txf.contents s.build.txFifoBits ++ [b] ∧
        t.txf.outIdx = s.txf.outIdx ∧ t.txLen = s.txLen + 1 ∧
        memRead fifoFill t.txf.buf (s.txf.inPos s.build.txFifoBits) = b ∧
        (∀ a, a ≠ s.txf.inPos s.build.txFifoBits →
          memRead fifoFill t.txf.buf a = memRead fifoFill s.txf.buf a)) ∧
    (s.txFull = true → exec (.txpush b) s = .next { s with rsp := 0x0000 })

/-- `RXPOP`, the word 0x0200, returns the oldest received byte with `FLAG` 1 and removes it, writing no buffer entry; on an empty FIFO the
answer is 0x0000 and nothing else changes (R145, R152). -/
def Obligations.RxpopReturnsTheOldestByte : Prop :=
  decodeCommand 0x0200 = .instr .rxpop ∧
  ∀ s : State, s.build.legal = true →
    (∀ b rest, s.rxf.contents s.build.rxFifoBits = b :: rest →
      ∃ t, exec .rxpop s = .next t ∧ t = { s with rxf := t.rxf, rsp := 0x01#8 ++ b } ∧
        t.rxf.contents s.build.rxFifoBits = rest ∧ t.rxf.buf = s.rxf.buf ∧ t.rxf.inIdx = s.rxf.inIdx) ∧
    (s.rxf.contents s.build.rxFifoBits = [] → exec .rxpop s = .next { s with rsp := 0x0000 })

/-- `RXPEEK` answers with the oldest byte and `FLAG` 1, or 0x0000 when there is none; `FIFOLEN` answers with the number of
stored bytes and `FLAG` 1 exactly when that is CAP - 1; none of them changes anything else (R146, R153, R154). -/
def Obligations.RxpeekAndFifolenReport : Prop :=
  ∀ s : State, s.build.legal = true →
    (∀ b rest, s.rxf.contents s.build.rxFifoBits = b :: rest →
      exec .rxpeek s = .next { s with rsp := 0x01#8 ++ b }) ∧
    (s.rxf.contents s.build.rxFifoBits = [] → exec .rxpeek s = .next { s with rsp := 0x0000 }) ∧
    (∃ t, exec (.fifolen .tx) s = .next t ∧ t = { s with rsp := t.rsp } ∧
      t.rsp.toNat = (s.txf.contents s.build.txFifoBits).length +
        (if (s.txf.contents s.build.txFifoBits).length = 2 ^ s.build.txFifoBits - 1 then 256 else 0)) ∧
    (∃ t, exec (.fifolen .rx) s = .next t ∧ t = { s with rsp := t.rsp } ∧
      t.rsp.toNat = (s.rxf.contents s.build.rxFifoBits).length +
        (if (s.rxf.contents s.build.rxFifoBits).length = 2 ^ s.build.rxFifoBits - 1 then 256 else 0))

/-- `FIFOCLR` empties the FIFOs it selects by setting both their indices to 0, leaves the buffers, the other FIFO, `TX_BYTE`
and `RX_BYTE` and everything else as they were, and answers 0x0000 (R147, R155). -/
def Obligations.FifoclrEmptiesTheSelectedFifos : Prop :=
  ∀ (t r : Bool) (s : State),
    ∃ u, exec (.fifoclr t r) s = .next u ∧ u = { s with txf := u.txf, rxf := u.rxf, rsp := 0x0000 } ∧
      u.txf.buf = s.txf.buf ∧ u.rxf.buf = s.rxf.buf ∧
      (t = true → u.txf.inIdx = 0 ∧ u.txf.outIdx = 0 ∧ u.txf.contents s.build.txFifoBits = []) ∧
      (t = false → u.txf = s.txf) ∧
      (r = true → u.rxf.inIdx = 0 ∧ u.rxf.outIdx = 0 ∧ u.rxf.contents s.build.rxFifoBits = []) ∧
      (r = false → u.rxf = s.rxf)

/-! Line control. -/

/-- What `Reconfigure` leaves of a state `s` that already has its new control register (R266): no forced carrier, both
FIFOs cleared with their buffers as they were, the live delay-line entries 0x80 and the others as they were. -/
def Sys2Proof.Machine.reconfiguredFrom (s t : State) : Prop :=
  t = { s with txCarrierOn := false, txf := t.txf, rxf := t.rxf, dl := t.dl, rsp := 0x0000 } ∧
  t.txf = { s.txf with inIdx := 0, outIdx := 0 } ∧ t.rxf = { s.rxf with inIdx := 0, outIdx := 0 } ∧
  (∀ k, k < s.queuelen → t.dlRead k = 0x80) ∧ (∀ k, s.queuelen ≤ k → t.dlRead k = s.dlRead k)

/-- `SETPROFILE p` writes `CFG_PROFILE`, runs `Reconfigure` at the new configuration and answers 0x0000; nothing else
changes. Row `p` of `PROFILES` is then the profile, with its symbol length and data-bit count
(R10, R23, R46, R266, R270). -/
def Obligations.SetprofileSelectsAndReconfigures : Prop :=
  ∀ (p : BitVec 1) (s : State), memWf dlFill s.build.maxQueuelen s.dl = true →
    ∃ t, exec (.setprofile p) s = .next t ∧ reconfiguredFrom { s with cfgProfile := p } t ∧
      (p = 0 → t.profile = s.build.profile0) ∧ (p = 1 → t.profile = s.build.profile1) ∧
      t.spb = s.build.sampleRate / t.profile.baud ∧ t.dataBits = t.profile.dataBits

/-- `SETDIR a, r` writes `CFG_DIR`, runs `Reconfigure` at the new configuration and answers 0x0000; nothing else changes.
The ToneSets are then assigned by `a` XOR `r`, with the steps of the one and the delay and polarity of the other
(R24, R46, R266, R271). -/
def Obligations.SetdirSelectsAndReconfigures : Prop :=
  ∀ (a r : Bool) (s : State), memWf dlFill s.build.maxQueuelen s.dl = true →
    ∃ t, exec (.setdir a r) s = .next t ∧
      (∃ d : BitVec 2, d.getLsbD 0 = a ∧ d.getLsbD 1 = r ∧ reconfiguredFrom { s with cfgDir := d } t) ∧
      t.txTones = (if (a ^^ r) then s.profile.answering else s.profile.originating) ∧
      t.rxTones = (if (a ^^ r) then s.profile.originating else s.profile.answering) ∧
      t.phaseStep false = stepFor s.build.sampleRate t.txTones.spaceHz ∧
      t.phaseStep true = stepFor s.build.sampleRate t.txTones.markHz ∧
      t.queuelen = t.rxTones.queuelen ∧ t.polarity = t.rxTones.polarity

/-- Two `SETDIR` words with the same operand leave the same machine as one, and so the same `STEP`, `QUEUELEN` and
`POLARITY`: each empties both FIFOs, refills the delay line and answers with `ERR` 0 (R267). -/
def Obligations.SetdirIsIdempotent : Prop :=
  ∀ (a r : Bool) (s : State), memWf dlFill s.build.maxQueuelen s.dl = true →
    ∃ t, exec (.setdir a r) s = .next t ∧ exec (.setdir a r) t = .next t ∧
      t.txEmpty = true ∧ t.rxEmpty = true ∧ (∀ k, k < t.queuelen → t.dlRead k = 0x80) ∧ t.rsp.getLsbD 15 = false

/-- `SETTXCAR v` writes `TX_CARRIER_ON` and answers 0x0000; nothing else changes, `TX_PHASE` among it (R272). -/
def Obligations.SettxcarWritesTheForcedCarrier : Prop :=
  ∀ (v : Bool) (s : State), exec (.settxcar v) s = .next { s with txCarrierOn := v, rsp := 0x0000 }

/-- `SETRXCAR 1` runs `Acquire`: an immediate lock with `FLAG` 1, or the start of a waiting acquisition with `FLAG` 0;
`SETRXCAR 0` stops the receiver. Nothing else changes (R262, R273). -/
def Obligations.SetrxcarStartsOrStopsTheReceiver : Prop :=
  ∀ s : State,
    (s.cfgWaitSeconds = 0 ∨ s.cfgOpt.getLsbD 0 = true →
      exec (.setrxcar true) s = .next
        { s with acqFailed := false, carrierLocked := true, lossCnt := BitVec.ofNat 24 s.lossSamples,
                 rxState := .wait, rsp := 0x0100 }) ∧
    (s.cfgWaitSeconds ≠ 0 → s.cfgOpt.getLsbD 0 = false →
      exec (.setrxcar true) s = .next
        { s with acqFailed := false, cdStreak := 0, waitCnt := BitVec.ofNat 24 s.waitSamples, carrierLocked := false,
                 rxState := .carrier, rsp := 0x0000 }) ∧
    exec (.setrxcar false) s = .next
      { s with rxState := .nop, carrierLocked := false, acqFailed := false, rsp := 0x0000 }

/-- `ACKNC` moves NO_CARRIER to NOP with `FLAG` 1; in any other state it answers 0x0000 and changes nothing else (R274). -/
def Obligations.AckncAcknowledgesACarrierLoss : Prop :=
  ∀ s : State,
    (s.rxState = .noCarrier → exec .acknc s = .next { s with rxState := .nop, rsp := 0x0100 }) ∧
    (s.rxState ≠ .noCarrier → exec .acknc s = .next { s with rsp := 0x0000 })

/-- `STATUS` answers with the bits of pages 0 to 2, reserved bits 0, the states by their codes; page 3 is the illegal
command E1; nothing but the response changes (R31, R38, R50, R87, R275).
That a state holding `TX_STATE` code 6 or 7, which no run reaches, reads that code back is the model's inference
(log entry 6). -/
def Obligations.StatusReadsThePages : Prop :=
  [TxState.wait, .preamble, .startBit, .dataBit, .stopBit, .trail, .unused6, .unused7].map TxState.code =
    [0, 1, 2, 3, 4, 5, 6, 7] ∧
  [RxState.wait, .preamble, .startBit, .dataBit, .stopBit, .carrier, .noCarrier, .nop].map RxState.code =
    [0, 1, 2, 3, 4, 5, 6, 7] ∧
  ∀ s : State,
    (∃ t, exec (.status 0) s = .next t ∧ t = { s with rsp := t.rsp } ∧
      t.rsp.toNat = s.rxState.code.toNat + 8 * s.txState.code.toNat + 64 * bitVal s.carrierLocked +
        128 * bitVal s.txActive) ∧
    (∃ t, exec (.status 1) s = .next t ∧ t = { s with rsp := t.rsp } ∧
      t.rsp.toNat = bitVal s.txCarrierOn + 2 * bitVal s.acqFailed + 4 * bitVal s.dialMode + 8 * bitVal s.txEmpty +
        16 * bitVal s.txFull + 32 * bitVal s.rxEmpty + 64 * bitVal s.rxFull) ∧
    (∃ t, exec (.status 2) s = .next t ∧ t = { s with rsp := t.rsp } ∧
      t.rsp.toNat = s.cfgProfile.toNat + 2 * s.cfgDir.toNat +
        8 * bitVal (s.cfgDir.getLsbD 0 ^^ s.cfgDir.getLsbD 1)) ∧
    exec (.status 3) s = .next { s with rsp := 0x8000 }

/-- `SETCDT`, `SETLOSS`, `SETWAIT` and `SETOPT` write their register and answer 0x0000, reloading no counter, and `CFGRD`
then reads the value back (R276 to R280). -/
def Obligations.ConfigurationRegistersReadBack : Prop :=
  ∀ (n : Byte) (g u : Bool) (s : State),
    exec (.setcdt n) s = .next { s with cfgCdTenths := n, rsp := 0x0000 } ∧
    exec (.setloss n) s = .next { s with cfgLossTenths := n, rsp := 0x0000 } ∧
    exec (.setwait n) s = .next { s with cfgWaitSeconds := n, rsp := 0x0000 } ∧
    (∃ d : BitVec 2, d.getLsbD 0 = g ∧ d.getLsbD 1 = u ∧
      exec (.setopt g u) s = .next { s with cfgOpt := d, rsp := 0x0000 } ∧
      exec (.cfgrd .opt) { s with cfgOpt := d } =
        .next { s with cfgOpt := d, rsp := BitVec.ofNat 16 (bitVal g + 2 * bitVal u) }) ∧
    exec (.cfgrd .cd) { s with cfgCdTenths := n } = .next { s with cfgCdTenths := n, rsp := 0x00#8 ++ n } ∧
    exec (.cfgrd .loss) { s with cfgLossTenths := n } = .next { s with cfgLossTenths := n, rsp := 0x00#8 ++ n } ∧
    exec (.cfgrd .wait) { s with cfgWaitSeconds := n } = .next { s with cfgWaitSeconds := n, rsp := 0x00#8 ++ n }

/-- `DIAL 1` enters dial mode with `FLAG` 1 when TX is idle, leaves a dialling block as it is with `FLAG` 1, and is refused
with `FLAG` 0 while a transmission is in progress; `DIAL 0` leaves dial mode and `FLAG` tells whether it was on. No FIFO
byte is touched and nothing else changes (R196). A state that holds `TX_STATE` code 6 or 7 is left out here; it acts as
WAIT (log entry 6). -/
def Obligations.DialEntersAndLeavesDialMode : Prop :=
  ∀ s : State,
    (s.dialMode = true → exec (.dial true) s = .next { s with rsp := 0x0100 }) ∧
    (s.dialMode = false → s.txState = .wait → s.txActive = false →
      exec (.dial true) s = .next { s with dialMode := true, rsp := 0x0100 }) ∧
    (s.dialMode = false → s.txState ≠ .unused6 → s.txState ≠ .unused7 → s.txState ≠ .wait ∨ s.txActive = true →
      exec (.dial true) s = .next { s with rsp := 0x0000 }) ∧
    (s.dialMode = true → exec (.dial false) s = .next { s with dialMode := false, rsp := 0x0100 }) ∧
    (s.dialMode = false → exec (.dial false) s = .next { s with rsp := 0x0000 })

/-! TICK: the transmitter. -/

/-- The output sample of a TICK: the generator's sample or 0x80 in dial mode, the wave at the phase before the advance
while the tone is on, 0x80 when parked (R111, R112, R170, R172, R195). -/
def Obligations.TickEmitsItsSample : Prop :=
  ∀ (x : Byte) (s : State), ∃ t, exec (.tick x) s = .next t ∧
    t.txSample =
      (if s.dialMode = true then (if s.dtmfActive = true then s.dtmfSample else 0x80)
       else if s.txActive = true ∨ s.txCarrierOn = true then wave (BitVec.ofNat 8 (s.txPhase.toNat / 256))
       else 0x80)

/-- `TX_PHASE` after a TICK outside dial mode that does not deactivate TX: advanced modulo 2^16 by the step of the current
symbol while the tone is on, else unchanged (R170, R171, R172). -/
def Sys2Proof.Machine.phaseAfter (s : State) : BitVec 16 :=
  if s.txActive = true ∨ s.txCarrierOn = true then
    BitVec.ofNat 16 ((s.txPhase.toNat +
      (stepFor s.build.sampleRate (if s.txSym = true then s.txTones.markHz else s.txTones.spaceHz)).toNat) % 65536)
  else s.txPhase

/-- The TICK is not a symbol tick: outside dial mode, and `TX_CNT` stays below `SPB` (R170, R174). -/
def Sys2Proof.Machine.midPeriod (s : State) : Prop := s.dialMode = false ∧ (s.txCnt.toNat + 1) % 256 < s.spb

/-- The TICK is a symbol tick (R170, R174). -/
def Sys2Proof.Machine.symbolTick (s : State) : Prop := s.dialMode = false ∧ s.spb ≤ (s.txCnt.toNat + 1) % 256

/-- A TICK inside a symbol period advances the phase and counts `TX_CNT`; the framer, the symbol and the TX FIFO stay as
they are and no `dtmf_send` is emitted (R112, R170, R171, R173, R174). -/
def Obligations.TickInsideASymbolPeriod : Prop :=
  ∀ (x : Byte) (s : State), midPeriod s →
    ∃ t, exec (.tick x) s = .next t ∧ t.dtmfSend = none ∧ t.dialMode = false ∧
      t.txView = { s.txView with txPhase := phaseAfter s, txCnt := BitVec.ofNat 8 (s.txCnt.toNat + 1) }

/-- The symbol ticks that look at the TX FIFO: WAIT, STOP_BIT and TRAIL take the oldest byte if there is one; WAIT then
starts the preamble and sets `TX_ACTIVE`, the other two start the start bit; an empty FIFO keeps WAIT, moves STOP_BIT to
TRAIL, and runs the trail down to deactivation unless the carrier is forced (R181, R185, R186). -/
def Obligations.TxFifoSymbolTicks : Prop :=
  ∀ (x : Byte) (s : State), symbolTick s → s.build.legal = true →
    (s.txState = .wait → s.txf.contents s.build.txFifoBits = [] →
      ∃ t, exec (.tick x) s = .next t ∧
        t.txView = { s.txView with txPhase := phaseAfter s, txCnt := 0, txSym := true }) ∧
    (∀ b rest, s.txState = .wait → s.txf.contents s.build.txFifoBits = b :: rest →
      ∃ t, exec (.tick x) s = .next t ∧ t.txf.contents s.build.txFifoBits = rest ∧
        t.txView = { s.txView with txPhase := phaseAfter s, txCnt := 0, txSym := true, txByte := b, txActive := true,
                                   txBits := 0, txState := .preamble, txf := t.txf }) ∧
    (s.txState = .stopBit → s.txf.contents s.build.txFifoBits = [] →
      ∃ t, exec (.tick x) s = .next t ∧
        t.txView = { s.txView with txPhase := phaseAfter s, txCnt := 0, txSym := true, txBits := 0,
                                   txState := .trail }) ∧
    (∀ b rest, s.txState = .stopBit ∨ s.txState = .trail → s.txf.contents s.build.txFifoBits = b :: rest →
      ∃ t, exec (.tick x) s = .next t ∧ t.txf.contents s.build.txFifoBits = rest ∧
        t.txView = { s.txView with txPhase := phaseAfter s, txCnt := 0, txSym := false, txByte := b,
                                   txState := .startBit, txf := t.txf }) ∧
    (s.txState = .trail → s.txf.contents s.build.txFifoBits = [] →
      s.txBits.toNat + 1 < s.build.carrierBits →
      ∃ t, exec (.tick x) s = .next t ∧
        t.txView = { s.txView with txPhase := phaseAfter s, txCnt := 0, txSym := true,
                                   txBits := BitVec.ofNat 8 (s.txBits.toNat + 1) }) ∧
    (s.txState = .trail → s.txf.contents s.build.txFifoBits = [] →
      s.build.carrierBits ≤ s.txBits.toNat + 1 → s.txCarrierOn = false →
      ∃ t, exec (.tick x) s = .next t ∧
        t.txView = { s.txView with txPhase := 0, txCnt := 0, txSym := true, txBits := 0, txActive := false,
                                   txState := .wait }) ∧
    (s.txState = .trail → s.txf.contents s.build.txFifoBits = [] →
      s.build.carrierBits ≤ s.txBits.toNat + 1 → s.txCarrierOn = true →
      ∃ t, exec (.tick x) s = .next t ∧
        t.txView = { s.txView with txPhase := phaseAfter s, txCnt := 0, txSym := true,
                                   txBits := BitVec.ofNat 8 (max s.txBits.toNat s.build.carrierBits) })

/-- The symbol ticks of PREAMBLE, START_BIT and DATA_BIT: the preamble ends after `CARRIER_BITS` periods, or at once under a
forced carrier, with a SPACE; the start bit loads the shift register and sends bit 0; the data bits go out LSB first and
end with a MARK stop bit (R182, R183, R184). -/
def Obligations.TxPreambleStartAndDataSymbolTicks : Prop :=
  ∀ (x : Byte) (s : State), symbolTick s →
    (s.txState = .preamble → s.txBits.toNat < 255 →
      ∃ t, exec (.tick x) s = .next t ∧
        t.txView =
          (if s.build.carrierBits ≤ s.txBits.toNat + 1 ∨ s.txCarrierOn = true then
            { s.txView with txPhase := phaseAfter s, txCnt := 0, txSym := false,
                            txBits := BitVec.ofNat 8 (s.txBits.toNat + 1), txState := .startBit }
           else
            { s.txView with txPhase := phaseAfter s, txCnt := 0, txSym := true,
                            txBits := BitVec.ofNat 8 (s.txBits.toNat + 1) })) ∧
    (s.txState = .startBit →
      ∃ t, exec (.tick x) s = .next t ∧
        t.txView = { s.txView with txPhase := phaseAfter s, txCnt := 0, txSym := s.txByte.getLsbD 0,
                                   txSr := BitVec.ofNat 8 (s.txByte.toNat / 2), txBits := 1, txState := .dataBit }) ∧
    (s.txState = .dataBit → s.profile.dataBits ≤ s.txBits.toNat →
      ∃ t, exec (.tick x) s = .next t ∧
        t.txView = { s.txView with txPhase := phaseAfter s, txCnt := 0, txSym := true, txState := .stopBit }) ∧
    (s.txState = .dataBit → s.txBits.toNat < s.profile.dataBits →
      ∃ t, exec (.tick x) s = .next t ∧
        t.txView = { s.txView with txPhase := phaseAfter s, txCnt := 0, txSym := s.txSr.getLsbD 0,
                                   txSr := BitVec.ofNat 8 (s.txSr.toNat / 2),
                                   txBits := BitVec.ofNat 8 (s.txBits.toNat + 1) })

/-- The symbols of one transmission of `b` (R187): preamble, start, data bits LSB first, stop, trail. -/
def Sys2Proof.Machine.frameSymbols (carrierBits dataBits : Nat) (b : Byte) : List Bool :=
  List.replicate carrierBits true ++ [false] ++ (List.range dataBits).map (fun k => b.getLsbD k) ++ [true] ++
    List.replicate carrierBits true

/-- An idle transmitter at the start of a symbol period, with exactly the byte `b` waiting (R187). -/
def Sys2Proof.Machine.readyToSend (s : State) (b : Byte) : Prop :=
  s.build.legal = true ∧ s.dialMode = false ∧ s.txCarrierOn = false ∧ s.txState = .wait ∧ s.txActive = false ∧
    s.txCnt = 0 ∧ s.txf.contents s.build.txFifoBits = [b]

/-- One byte on the line (R176, R182 to R187): whatever the receiver hears, the symbol in force during symbol period
k + 1 is the k-th of the frame, the tone is on for all of them, and after the trail the block is idle again with its
phase at 0 and the FIFO empty. -/
def Obligations.TransmissionSendsTheFrame : Prop :=
  ∀ (s : State) (b : Byte), readyToSend s b →
    (∀ (k : Nat) (xs : List Byte), k < (frameSymbols s.build.carrierBits s.dataBits b).length →
      xs.length = (k + 1) * s.spb →
      (tickRun xs s).txSym = (frameSymbols s.build.carrierBits s.dataBits b).getD k true ∧
      (tickRun xs s).txActive = true) ∧
    (∀ xs : List Byte, xs.length = ((frameSymbols s.build.carrierBits s.dataBits b).length + 1) * s.spb →
      (tickRun xs s).txState = .wait ∧ (tickRun xs s).txActive = false ∧ (tickRun xs s).txPhase = 0 ∧
      (tickRun xs s).txf.contents s.build.txFifoBits = [])

/-- A TICK in dial mode: an active generator supplies the sample and nothing of TX changes; an idle one is sent the next
character from the TX FIFO; with the FIFO empty dial mode ends. The TX framer, the phase and `TX_CNT` stay as they are
(R112, R195, R197). -/
def Obligations.DialModeTick : Prop :=
  ∀ (x : Byte) (s : State), s.build.legal = true → s.dialMode = true →
    (s.dtmfActive = true →
      ∃ t, exec (.tick x) s = .next t ∧ t.txSample = s.dtmfSample ∧ t.dtmfSend = none ∧ t.dialMode = true ∧
        t.txView = s.txView) ∧
    (∀ c rest, s.dtmfActive = false → s.txf.contents s.build.txFifoBits = c :: rest →
      ∃ t, exec (.tick x) s = .next t ∧ t.txSample = 0x80 ∧ t.dtmfSend = some c ∧ t.dialMode = true ∧
        t.txf.contents s.build.txFifoBits = rest ∧ t.txView = { s.txView with txf := t.txf }) ∧
    (s.dtmfActive = false → s.txf.contents s.build.txFifoBits = [] →
      ∃ t, exec (.tick x) s = .next t ∧ t.txSample = 0x80 ∧ t.dtmfSend = none ∧ t.dialMode = false ∧
        t.txView = s.txView)

/-! TICK: the receiver. -/

/-- The signal chain in exact integers, with no wrap (R210 to R218): bias removed from the sample and from the oldest
delay-line entry, the scaled product, the filter, the decision into the history. -/
def Obligations.SignalChainIsExact : Prop :=
  ∀ (x : Byte) (s : State), s.build.legal = true → s.IirInv →
    ∃ t, exec (.tick x) s = .next t ∧ t.iirX0 = s.iirX1 ∧ t.iirY0 = s.iirY1 ∧
      t.iirX1.toInt =
        (((s.dlRead 0).toNat : Int) - 128) * ((x.toNat : Int) - 128) / ((2 ^ s.build.prodShift : Nat) : Int) ∧
      t.iirY1.toInt = s.iirX1.toInt + t.iirX1.toInt + s.iirY1.toInt / ((2 ^ s.build.yShift : Nat) : Int) ∧
      t.rxHist.toNat = (2 * s.rxHist.toNat + bitVal (decide (0 < t.iirY1.toInt) ^^ s.rxTones.polarity)) % 256

/-- After `QUEUELEN` TICKs the delay line holds exactly their samples, oldest first, whatever came before: the popped
entry is the sample of `QUEUELEN` TICKs earlier (R63, R212). -/
def Obligations.DelayLineHoldsTheLastSamples : Prop :=
  ∀ (s : State) (before xs : List Byte), s.build.legal = true → s.MemInv → xs.length = s.queuelen →
    ∀ k, k < s.queuelen → (tickRun (before ++ xs) s).dlRead k = xs.getD k 0

/-- The decision a TICK shifted into the history (R218). -/
def Sys2Proof.Machine.newest (t : State) : Bool := t.rxHist.getLsbD 0

/-- The start windows: PREAMBLE ends after `SPB/2` decisions and is accepted with at most `SPB/8` HIGH ones; START_BIT ends
after `SPB` decisions and is accepted with at most `SPB/4`; a rejection returns to WAIT (R224, R225, R315). -/
def Obligations.RxStartWindows : Prop :=
  ∀ (x : Byte) (s : State), s.rxCnt.toNat < 255 → s.rxBitsum.toNat < 255 →
    (s.rxState = .preamble →
      ∃ t, exec (.tick x) s = .next t ∧
        t.framerView =
          { s.framerView with
            rxBitsum := BitVec.ofNat 8 (s.rxBitsum.toNat + bitVal (newest t))
            rxCnt := BitVec.ofNat 8 (s.rxCnt.toNat + 1)
            rxState :=
              if s.rxCnt.toNat + 1 < s.spb / 2 then .preamble
              else if s.rxBitsum.toNat + bitVal (newest t) ≤ s.spb / 8 then .startBit else .wait }) ∧
    (s.rxState = .startBit →
      ∃ t, exec (.tick x) s = .next t ∧
        t.framerView =
          (if s.rxCnt.toNat + 1 < s.spb ∨ s.spb / 4 < s.rxBitsum.toNat + bitVal (newest t) then
            { s.framerView with
              rxBitsum := BitVec.ofNat 8 (s.rxBitsum.toNat + bitVal (newest t))
              rxCnt := BitVec.ofNat 8 (s.rxCnt.toNat + 1)
              rxState := if s.rxCnt.toNat + 1 < s.spb then .startBit else .wait }
           else
            { s.framerView with
              rxBitsum := 0, rxCnt := 0, rxByte := 0, rxBits := 0, rxState := .dataBit }))

/-- The data and stop windows: a data bit is 1 with more than `SPB/2` HIGH decisions of `SPB` and lands at place `RX_BITS`;
after the last the stop window takes `SPB/2` decisions, and with more than `SPB/4` HIGH the byte is pushed, else it is
discarded; either way the framer returns to WAIT (R226, R227, R228, R314, R316). -/
def Obligations.RxDataAndStopWindows : Prop :=
  ∀ (x : Byte) (s : State), s.rxCnt.toNat < 255 → s.rxBitsum.toNat < 255 →
    (s.rxState = .dataBit → s.rxBits.toNat < 8 →
      ∃ t, exec (.tick x) s = .next t ∧
        t.framerView =
          (if s.rxCnt.toNat + 1 < s.spb then
            { s.framerView with
              rxBitsum := BitVec.ofNat 8 (s.rxBitsum.toNat + bitVal (newest t))
              rxCnt := BitVec.ofNat 8 (s.rxCnt.toNat + 1) }
           else
            { s.framerView with
              rxBitsum := 0
              rxCnt := 0
              rxByte := s.rxByte ||| BitVec.ofNat 8
                (if s.spb / 2 < s.rxBitsum.toNat + bitVal (newest t) then 2 ^ s.rxBits.toNat else 0)
              rxBits := BitVec.ofNat 4 (s.rxBits.toNat + 1)
              rxState := if s.profile.dataBits ≤ s.rxBits.toNat + 1 then .stopBit else .dataBit })) ∧
    (s.rxState = .stopBit →
      ∃ t, exec (.tick x) s = .next t ∧
        t.framerView =
          { s.framerView with
            rxBitsum := BitVec.ofNat 8 (s.rxBitsum.toNat + bitVal (newest t))
            rxCnt := BitVec.ofNat 8 (s.rxCnt.toNat + 1)
            rxState := if s.rxCnt.toNat + 1 < s.spb / 2 then .stopBit else .wait
            rxf :=
              if s.spb / 2 ≤ s.rxCnt.toNat + 1 ∧ s.spb / 4 < s.rxBitsum.toNat + bitVal (newest t) then
                s.rxf.push s.build.rxFifoBits s.rxByte
              else s.rxf })

/-- WAIT: with a locked carrier and `DCD_FOLLOWS`, a history of eight HIGH decisions reloads the loss timer, another one
counts it down, and at 1 or below the carrier is lost with no edge search; otherwise a HIGH-to-LOW edge opens an empty
window in PREAMBLE (R221, R222, R223, R318). -/
def Obligations.RxWaitTick : Prop :=
  ∀ (x : Byte) (s : State), s.rxState = .wait →
    ∃ t, exec (.tick x) s = .next t ∧
      (s.carrierLocked = true → s.dcdFollows = true → t.rxHist ≠ 0xFF → s.lossCnt.toNat ≤ 1 →
        t.framerView = { s.framerView with lossCnt := 0, carrierLocked := false, rxState := .noCarrier }) ∧
      (¬ (s.carrierLocked = true ∧ s.dcdFollows = true ∧ t.rxHist ≠ 0xFF ∧ s.lossCnt.toNat ≤ 1) →
        t.framerView =
          { s.framerView with
            lossCnt :=
              if s.carrierLocked = true ∧ s.dcdFollows = true then
                (if t.rxHist = 0xFF then BitVec.ofNat 24 s.lossSamples
                 else BitVec.ofNat 24 (s.lossCnt.toNat - 1))
              else s.lossCnt
            rxBitsum := if t.rxHist.toNat % 4 = 2 then 0 else s.rxBitsum
            rxCnt := if t.rxHist.toNat % 4 = 2 then 0 else s.rxCnt
            rxState := if t.rxHist.toNat % 4 = 2 then .preamble else .wait })

/-- The streak of consecutive HIGH decisions after a decision (R263). -/
def Sys2Proof.Machine.streakAfter (bit : Bool) (s : State) : Nat := if bit = true then min (s.cdStreak.toNat + 1) (2 ^ 24 - 1) else 0

/-- CARRIER: the streak reaching `CD_TOTAL` locks, with the loss timer loaded; else the wait timer counts down, and at 0
the acquisition has failed and the receiver is in NOP (R263, R317). -/
def Obligations.CarrierTick : Prop :=
  ∀ (x : Byte) (s : State), s.rxState = .carrier →
    ∃ t, exec (.tick x) s = .next t ∧
      (s.cdTotal ≤ streakAfter (newest t) s →
        t.framerView =
          { s.framerView with
            cdStreak := BitVec.ofNat 24 (streakAfter (newest t) s), carrierLocked := true,
            lossCnt := BitVec.ofNat 24 s.lossSamples, rxState := .wait }) ∧
      (streakAfter (newest t) s < s.cdTotal → s.waitCnt.toNat ≤ 1 →
        t.framerView =
          { s.framerView with
            cdStreak := BitVec.ofNat 24 (streakAfter (newest t) s), waitCnt := 0, acqFailed := true,
            rxState := .nop }) ∧
      (streakAfter (newest t) s < s.cdTotal → 1 < s.waitCnt.toNat →
        t.framerView =
          { s.framerView with
            cdStreak := BitVec.ofNat 24 (streakAfter (newest t) s),
            waitCnt := BitVec.ofNat 24 (s.waitCnt.toNat - 1) })

/-- The lock boundary (R264): from `Acquire`, exactly `CD_TOTAL` HIGH decisions lock, on the last of them; `CD_TOTAL` - 1
followed by a LOW one leave the receiver in CARRIER, unlocked, with the streak at 0. -/
def Obligations.CarrierLockBoundary : Prop :=
  ∀ s : State, s.build.legal = true → s.cfgWaitSeconds ≠ 0 → s.cfgOpt.getLsbD 0 = false → s.cdTotal < s.waitSamples →
    ∃ t, exec (.setrxcar true) s = .next t ∧
      (decisionRun (List.replicate s.cdTotal true) t).carrierLocked = true ∧
      (decisionRun (List.replicate s.cdTotal true) t).rxState = .wait ∧
      (decisionRun (List.replicate (s.cdTotal - 1) true) t).carrierLocked = false ∧
      (decisionRun (List.replicate (s.cdTotal - 1) true ++ [false]) t).carrierLocked = false ∧
      (decisionRun (List.replicate (s.cdTotal - 1) true ++ [false]) t).cdStreak = 0 ∧
      (decisionRun (List.replicate (s.cdTotal - 1) true ++ [false]) t).rxState = .carrier

/-- Every acquisition ends within `WAIT_CNT` TICKs, locked in WAIT or failed in NOP, whatever is received
(R263, R281, R317). -/
def Obligations.AcquisitionEnds : Prop :=
  ∀ (s : State) (xs : List Byte), s.rxState = .carrier → 1 ≤ s.waitCnt.toNat → xs.length = s.waitCnt.toNat →
    ∃ k, k ≤ xs.length ∧
      (((tickRun (xs.take k) s).rxState = .wait ∧ (tickRun (xs.take k) s).carrierLocked = true) ∨
       ((tickRun (xs.take k) s).rxState = .nop ∧ (tickRun (xs.take k) s).acqFailed = true))

/-- A decision stream without a HIGH-to-LOW edge, LOW and then HIGH after a LOW decision or HIGH throughout, never leaves
WAIT for PREAMBLE and pushes no byte (R222, R265). -/
def Obligations.NoEdgeNoByte : Prop :=
  ∀ (s : State) (m n : Nat), s.rxState = .wait → s.rxHist.getLsbD 0 = false ∨ m = 0 →
    (decisionRun (List.replicate m false ++ List.replicate n true) s).rxf = s.rxf ∧
    ((decisionRun (List.replicate m false ++ List.replicate n true) s).rxState = .wait ∨
     (decisionRun (List.replicate m false ++ List.replicate n true) s).rxState = .noCarrier)

/-- A line that carries `b` at the receiver: a start period, the data periods LSB first, and enough of the stop bit
(R229, R234). -/
def Sys2Proof.Machine.idealFrame (spb dataBits : Nat) (b : Byte) : List Bool :=
  List.replicate spb false ++
    ((List.range dataBits).map (fun k => b.getLsbD k)).flatMap (fun bit => List.replicate spb bit) ++
    List.replicate (spb / 2 + 1) true

/-- A receiver in WAIT on a MARK line (R234). -/
def Sys2Proof.Machine.listening (s : State) : Prop :=
  s.build.legal = true ∧ s.rxState = .wait ∧ s.rxHist.getLsbD 0 = true

/-- The loss timer does not run (R221), or it has `n` WAIT TICKs left now and `m` after a refresh. -/
def Sys2Proof.Machine.lossTimeLeft (n m : Nat) (s : State) : Prop :=
  s.carrierLocked = true → s.dcdFollows = true → n ≤ s.lossCnt.toNat ∧ m ≤ s.lossSamples

/-- The byte with only its low `n` bits (R227). -/
def Sys2Proof.Machine.lowBits (n : Nat) (b : Byte) : Byte := BitVec.ofNat 8 (b.toNat % 2 ^ n)

/-- An ideal frame is received: at every legal `SPB` and data-bit count the byte is pushed into the RX FIFO and the framer
is back in WAIT, with the carrier still locked if it was. A running loss timer must outlast the one WAIT TICK of the edge
(R221 to R229). -/
def Obligations.IdealFrameIsReceived : Prop :=
  ∀ (s : State) (b : Byte), listening s → lossTimeLeft 2 0 s →
    (decisionRun (idealFrame s.spb s.dataBits b) s).carrierLocked = s.carrierLocked ∧
    (decisionRun (idealFrame s.spb s.dataBits b) s).rxState = .wait ∧
    (decisionRun (idealFrame s.spb s.dataBits b) s).rxf = s.rxf.push s.build.rxFifoBits (lowBits s.dataBits b)

/-- The symbols in force during the first `n` symbol periods after a symbol tick, while the samples `xs` are heard: the
symbol after every `SPB`-th TICK (R174, R176). -/
def Sys2Proof.Machine.sentSymbols (n : Nat) (xs : List Byte) (s : State) : List Bool :=
  (List.range n).map (fun k => (tickRun (xs.take ((k + 1) * s.spb)) s).txSym)

/-- The round trip on an ideal line: the symbols that a transmitter puts on the line for a byte, whatever it hears, held for
`SPB` decisions each, make a listening receiver of the same symbol rate and data-bit count push that byte.
A running loss timer must outlast the WAIT TICKs until the history holds eight HIGH decisions, before and after the frame
(R176, R187, R229; 95_test_vectors.md S1 without the tone chain). -/
def Obligations.TransmittedByteIsReceived : Prop :=
  ∀ (s r : State) (b : Byte) (xs : List Byte) (n : Nat), readyToSend s b → listening r → lossTimeLeft 12 6 r →
    r.spb = s.spb →
    r.dataBits = s.dataBits → n = (frameSymbols s.build.carrierBits s.dataBits b).length → xs.length = n * s.spb →
    (decisionRun ((sentSymbols n xs s).flatMap (fun bit => List.replicate s.spb bit)) r).rxState = .wait ∧
    (decisionRun ((sentSymbols n xs s).flatMap (fun bit => List.replicate s.spb bit)) r).rxf =
      r.rxf.push r.build.rxFifoBits (lowBits s.dataBits b)

/-! Whole-machine rules. -/

/-- What a TICK leaves alone (R71, R113): the build, the control registers, the forced carrier, the response, the inputs;
`DIAL_MODE` is only ever cleared; the host's FIFO indices; every entry of the TX buffer, every entry of the RX buffer but
the one at `RXF_IN`, and every delay-line entry that is not live. -/
def Obligations.TickFrame : Prop :=
  ∀ (x : Byte) (s t : State), exec (.tick x) s = .next t →
    t.build = s.build ∧ t.controlView = s.controlView ∧ t.txCarrierOn = s.txCarrierOn ∧ t.rsp = s.rsp ∧
    t.input = s.input ∧ t.dtmfActive = s.dtmfActive ∧ t.dtmfSample = s.dtmfSample ∧
    (s.dialMode = false → t.dialMode = false) ∧
    t.txf.inIdx = s.txf.inIdx ∧ t.txf.buf = s.txf.buf ∧ t.rxf.outIdx = s.rxf.outIdx ∧
    (∀ a, a ≠ s.rxf.inPos s.build.rxFifoBits → memRead fifoFill t.rxf.buf a = memRead fifoFill s.rxf.buf a) ∧
    (∀ a, s.queuelen ≤ a → 1 ≤ s.queuelen → t.dlRead a = s.dlRead a)

/-- What no host command writes (R71, R266): the build, the TX framer and phase, the filter and the history, the RX window
registers, the output sample, the DTMF port and the waiting operations; nor any entry of the RX buffer. The delay line is
written by `SETPROFILE` and `SETDIR` alone, the TX buffer by `TXPUSH` alone. -/
def Obligations.HostCommandFrame : Prop :=
  ∀ (i : Instr) (s t : State), (∀ x, i ≠ .tick x) → exec i s = .next t →
    t.build = s.build ∧ t.txView = { s.txView with txf := t.txf } ∧
    t.chainView = { s.chainView with dl := t.dl } ∧
    t.rxBitsum = s.rxBitsum ∧ t.rxCnt = s.rxCnt ∧ t.rxByte = s.rxByte ∧ t.rxBits = s.rxBits ∧
    t.txSample = s.txSample ∧ t.dtmfSend = s.dtmfSend ∧ t.dtmfActive = s.dtmfActive ∧
    t.dtmfSample = s.dtmfSample ∧ t.input = s.input ∧ t.rxf.buf = s.rxf.buf ∧
    ((∀ b, i ≠ .txpush b) → t.txf.buf = s.txf.buf) ∧
    ((∀ p, i ≠ .setprofile p) → (∀ a r, i ≠ .setdir a r) → t.dl = s.dl)

/-- The receiver never reads the transmitter: two states that agree on the build, the control registers and the receiver
leave receivers that agree, after a TICK with the same sample; and the transmitter never reads the sample
(R111, R114). -/
def Obligations.ReceiverAndTransmitterAreIndependent : Prop :=
  (∀ (x : Byte) (s u s' u' : State),
    s.build = u.build → s.controlView = u.controlView → s.chainView = u.chainView → s.framerView = u.framerView →
    exec (.tick x) s = .next s' → exec (.tick x) u = .next u' →
    s'.chainView = u'.chainView ∧ s'.framerView = u'.framerView) ∧
  (∀ (x y : Byte) (s s' s'' : State), exec (.tick x) s = .next s' → exec (.tick y) s = .next s'' →
    s'.txView = s''.txView ∧ s'.txSample = s''.txSample ∧ s'.dtmfSend = s''.dtmfSend ∧ s'.dialMode = s''.dialMode)

/-- NOP is left only by `SETRXCAR 1`, and NO_CARRIER only by `ACKNC`, to NOP, or by `SETRXCAR`; a TICK in either state leaves
the framer, the carrier detector and the RX FIFO as they are, and shifts its decision into the history all the same
(R232, R347). -/
def Obligations.StoppedReceiverWaitsForTheHost : Prop :=
  ∀ (i : Instr) (s t : State), exec i s = .next t →
    (s.rxState = .nop → t.rxState ≠ .nop → i = .setrxcar true) ∧
    (s.rxState = .noCarrier → t.rxState ≠ .noCarrier → (i = .acknc ∧ t.rxState = .nop) ∨ ∃ v, i = .setrxcar v) ∧
    (∀ x, i = .tick x → s.rxState = .nop ∨ s.rxState = .noCarrier →
      t.framerView = s.framerView ∧ t.rxHist.toNat = (2 * s.rxHist.toNat + bitVal (newest t)) % 256)

/-- A TICK meets each event exactly when its cause holds, read from the state before and after, and records it as the event
table says (R311, R314 to R318). -/
def Obligations.TickEventsAreRecorded : Prop :=
  ∀ (x : Byte) (s t : State), exec (.tick x) s = .next t →
    (tickEvent x s = some .acqTimeout ↔ s.rxState = .carrier ∧ t.rxState = .nop) ∧
    (tickEvent x s = some .acqTimeout → t.acqFailed = true ∧ t.waitCnt = 0) ∧
    (tickEvent x s = some .carrierLoss ↔ s.rxState = .wait ∧ t.rxState = .noCarrier) ∧
    (tickEvent x s = some .carrierLoss → t.carrierLocked = false) ∧
    (tickEvent x s = some .framingReject ↔
      (s.rxState = .preamble ∨ s.rxState = .startBit) ∧ t.rxState = .wait) ∧
    (tickEvent x s = some .stopFail ↔
      s.rxState = .stopBit ∧ t.rxState = .wait ∧ t.rxBitsum.toNat ≤ s.spb / 4) ∧
    (tickEvent x s = some .rxOverflow ↔
      s.rxState = .stopBit ∧ t.rxState = .wait ∧ s.spb / 4 < t.rxBitsum.toNat ∧ s.rxFull = true) ∧
    (tickEvent x s = some .stopFail ∨ tickEvent x s = some .rxOverflow → t.rxf = s.rxf)

/-! Invariants. -/

/-- Every step keeps the memories in canonical form and inside their sizes, and the FIFO indices within their widths
(R44, R61, R148). -/
def Obligations.StepKeepsTheMemories : Prop :=
  ∀ s t : State, s.MemInv → step s = .next t → t.MemInv

/-- Every step keeps the ranges of the TX engine (R31, R32, R36, R37, R330). -/
def Obligations.StepKeepsTheTransmitterRanges : Prop :=
  ∀ s t : State, s.TxInv → step s = .next t → t.TxInv

/-- Every step keeps the ranges of the RX framer (R40, R41, R227, R330). -/
def Obligations.StepKeepsTheReceiverRanges : Prop :=
  ∀ s t : State, s.RxInv → step s = .next t → t.RxInv

/-- Every step keeps the relations of the carrier detector: a locked carrier exactly in a framing state, a failed acquisition
only in NOP, a running wait timer in CARRIER (R43, R221, R262, R263, R273, R274). -/
def Obligations.StepKeepsTheCarrierRelations : Prop :=
  ∀ s t : State, s.CarrierInv → step s = .next t → t.CarrierInv

/-- Every step keeps the filter cells in the ranges of R213 and R216, in which `wraps16` never wraps, at every legal
`PROD_SHIFT` and `Y_SHIFT`. -/
def Obligations.StepKeepsTheFilterRanges : Prop :=
  ∀ s t : State, s.IirInv → step s = .next t → t.IirInv
end

