-- ==== Sys2Proof/Laws/Arith.lean ====
section
/-! SUPPORT. The laws of the signed arithmetic: what fits 16 bits is not wrapped, and shifting keeps an order
(00_scope.md rule R12). -/

namespace Sys2Proof.Machine

theorem wraps16_toInt {v : Int} (h1 : -32768 ≤ v) (h2 : v ≤ 32767) : (wraps16 v).toInt = v := by
  unfold wraps16
  rw [BitVec.toInt_ofInt, Int.bmod_def]
  have h3 : ((2 ^ 16 : Nat) : Int) = 65536 := rfl
  rw [h3]
  split <;> omega

theorem asr_mono {v w : Int} (k : Nat) (h : v ≤ w) : asr v k ≤ asr w k :=
  Int.ediv_le_ediv (Int.natCast_pos.mpr (Nat.two_pow_pos k)) h

theorem unbias_bounds (raw : Byte) : -128 ≤ unbias raw ∧ unbias raw ≤ 127 := by
  have h := raw.isLt
  unfold unbias
  omega

end Sys2Proof.Machine
end

