-- ==== Sys2Proof/Laws/Build.lean ====
section
/-! SUPPORT. What a legal build gives (00_scope.md rules R8 and R9), in the form proofs use. -/

namespace Sys2Proof.Machine

theorem within_iff {lo hi v : Nat} : within lo hi v = true ↔ lo ≤ v ∧ v ≤ hi := by
  simp [within]

/-- The ranges of rule R8. -/
theorem legal_ranges {b : Build} (h : b.legal = true) :
    (1200 ≤ b.sampleRate ∧ b.sampleRate ≤ 65535) ∧ (1 ≤ b.txFifoBits ∧ b.txFifoBits ≤ 8) ∧
      (1 ≤ b.rxFifoBits ∧ b.rxFifoBits ≤ 8) ∧ (1 ≤ b.maxQueuelen ∧ b.maxQueuelen ≤ 255) ∧
      (2 ≤ b.prodShift ∧ b.prodShift ≤ 7) ∧ (1 ≤ b.yShift ∧ b.yShift ≤ 7) ∧
      (1 ≤ b.carrierBits ∧ b.carrierBits ≤ 255) := by
  simp only [Build.legal, Bool.and_eq_true, within_iff] at h
  obtain ⟨⟨⟨⟨⟨⟨⟨⟨h1, h2⟩, h3⟩, h4⟩, h5⟩, h6⟩, h7⟩, _⟩, _⟩ := h
  exact ⟨h1, h2, h3, h4, h5, h6, h7⟩

theorem legal_profile {b : Build} (h : b.legal = true) (n : BitVec 1) :
    (b.profile n).legal b.sampleRate b.maxQueuelen = true := by
  simp only [Build.legal, Bool.and_eq_true] at h
  unfold Build.profile
  split
  · exact h.1.2
  · exact h.2

/-- Every profile of a legal build (rule R9), as the ranges that proofs use. -/
theorem legal_profile_ranges {b : Build} (h : b.legal = true) (n : BitVec 1) :
    (1 ≤ (b.profile n).dataBits ∧ (b.profile n).dataBits ≤ 8) ∧
      (4 ≤ b.sampleRate / (b.profile n).baud ∧ b.sampleRate / (b.profile n).baud ≤ 255) ∧
      (1 ≤ (b.profile n).originating.queuelen ∧ (b.profile n).originating.queuelen ≤ b.maxQueuelen) ∧
      (1 ≤ (b.profile n).answering.queuelen ∧ (b.profile n).answering.queuelen ≤ b.maxQueuelen) := by
  have hp := legal_profile h n
  simp only [Profile.legal, ToneSet.legal, Bool.and_eq_true, within_iff] at hp
  obtain ⟨⟨⟨⟨⟨h1, _⟩, _⟩, ⟨⟨h2, _⟩, _⟩⟩, h3⟩, h4⟩ := hp
  exact ⟨h3, h4, h1, h2⟩

/-- `SPB` of a legal build (rules R8 and R46). -/
theorem spb_range {s : State} (h : s.build.legal = true) : 4 ≤ s.spb ∧ s.spb ≤ 255 :=
  (legal_profile_ranges h s.cfgProfile).2.1

/-- `DATA_BITS` of a legal build (rules R9 and R46). -/
theorem dataBits_range {s : State} (h : s.build.legal = true) : 1 ≤ s.dataBits ∧ s.dataBits ≤ 8 :=
  (legal_profile_ranges h s.cfgProfile).1

/-- `QUEUELEN` of a legal build (rules R9 and R46). -/
theorem queuelen_range {s : State} (h : s.build.legal = true) : 1 ≤ s.queuelen ∧ s.queuelen ≤ s.build.maxQueuelen := by
  have hp := legal_profile_ranges h s.cfgProfile
  unfold State.queuelen State.rxTones
  split
  · exact hp.2.2.1
  · exact hp.2.2.2

theorem maxSpb_range {b : Build} (h : b.legal = true) : 4 ≤ b.maxSpb ∧ b.maxSpb ≤ 255 := by
  have h0 := (legal_profile_ranges h 0).2.1
  have h1 := (legal_profile_ranges h 1).2.1
  simp only [Build.profile] at h0 h1
  unfold Build.maxSpb
  simp only [if_true] at h0
  simp only [show ¬ (1 : BitVec 1) = 0 by decide, if_false] at h1
  omega

theorem maxDataBits_range {b : Build} (h : b.legal = true) : 1 ≤ b.maxDataBits ∧ b.maxDataBits ≤ 8 := by
  have h0 := (legal_profile_ranges h 0).1
  have h1 := (legal_profile_ranges h 1).1
  simp only [Build.profile] at h0 h1
  unfold Build.maxDataBits
  simp only [if_true] at h0
  simp only [show ¬ (1 : BitVec 1) = 0 by decide, if_false] at h1
  omega

/-- The current `SPB` is one of the two (rule R46). -/
theorem spb_le_maxSpb (s : State) : s.spb ≤ s.build.maxSpb := by
  unfold State.spb State.profile Build.profile Build.maxSpb
  split <;> omega

theorem dataBits_le_maxDataBits (s : State) : s.dataBits ≤ s.build.maxDataBits := by
  unfold State.dataBits State.profile Build.profile Build.maxDataBits
  split <;> omega

end Sys2Proof.Machine
end

