-- ==== Sys2Proof/Laws/Decode.lean ====
section
/-! SUPPORT. The laws of decoding: a command word is its `op` and its `imm`, and the verdict is read off them. -/

namespace Sys2Proof
/-- The word with the given `op` and `imm` (rule R81). -/
def wordOf (op imm : Byte) : Word := op ++ imm

theorem wordOf_toNat (op imm : Byte) : (wordOf op imm).toNat = op.toNat * 256 + imm.toNat := by
  have h := BitVec.toNat_append (x := op) (y := imm)
  have : (wordOf op imm).toNat = (op.toNat <<< 8) ||| imm.toNat := h
  rw [this, ← Nat.shiftLeft_add_eq_or_of_lt imm.isLt, Nat.shiftLeft_eq]

theorem wordOf_getLsbD (op imm : Byte) (i : Nat) :
    (wordOf op imm).getLsbD i = if i < 8 then imm.getLsbD i else op.getLsbD (i - 8) :=
  (BitVec.getLsbD_append (x := op) (y := imm) (i := i)).trans (by simp)

theorem wordOf_inj {op imm op' imm' : Byte} : wordOf op imm = wordOf op' imm' ↔ op = op' ∧ imm = imm' := by
  constructor
  · intro h
    have := congrArg BitVec.toNat h
    simp only [wordOf_toNat] at this
    have := imm.isLt; have := imm'.isLt
    exact ⟨BitVec.eq_of_toNat_eq (by omega), BitVec.eq_of_toNat_eq (by omega)⟩
  · rintro ⟨rfl, rfl⟩; rfl

theorem exists_wordOf (w : Word) : ∃ op imm, w = wordOf op imm := by
  refine ⟨BitVec.ofNat 8 (w.toNat / 256), BitVec.ofNat 8 w.toNat, BitVec.eq_of_toNat_eq ?_⟩
  rw [wordOf_toNat]
  have := w.isLt
  simp only [BitVec.toNat_ofNat]
  omega

theorem wordOf_and (a b c d : Byte) : wordOf a b &&& wordOf c d = wordOf (a &&& c) (b &&& d) := by
  apply BitVec.eq_of_getLsbD_eq; intro i hi
  simp only [BitVec.getLsbD_and, wordOf_getLsbD]; split <;> simp

/-- A row is selected by its `op` and by its covered operand bits being 0. -/
theorem selects_wordOf (n : String) (op mask hi lo : Byte) (f : Word → Instr) :
    (Row.mk n (wordOf op 0) (wordOf 0xFF mask) f).selects (wordOf hi lo) = (hi == op && lo &&& mask == 0) := by
  have h1 : hi &&& 0xFF = hi := BitVec.and_allOnes
  rw [Bool.eq_iff_iff]
  simp only [Row.selects, wordOf_and, h1, beq_iff_eq, Bool.and_eq_true, wordOf_inj]

/-- The opcode map with each word split into its two bytes. -/
theorem opcodeTable_eq : opcodeTable =
  [ ⟨"NOP",     wordOf 0x00 0, wordOf 0xFF 0xFF, fun _ => .nop⟩,
    ⟨"TXPUSH",  wordOf 0x01 0, wordOf 0xFF 0x00, fun w => .txpush (wordImm w)⟩,
    ⟨"RXPOP",   wordOf 0x02 0, wordOf 0xFF 0xFF, fun _ => .rxpop⟩,
    ⟨"RXPEEK",  wordOf 0x03 0, wordOf 0xFF 0xFF, fun _ => .rxpeek⟩,
    ⟨"FIFOLEN", wordOf 0x04 0, wordOf 0xFF 0xFE, fun w => .fifolen (fifoSelOf (wordBit w 0))⟩,
    ⟨"FIFOCLR", wordOf 0x05 0, wordOf 0xFF 0xFC, fun w => .fifoclr (wordBit w 0) (wordBit w 1)⟩,
    ⟨"SETPROFILE", wordOf 0x10 0, wordOf 0xFF 0xFE, fun w => .setprofile (w.extractLsb' 0 1)⟩,
    ⟨"SETDIR",     wordOf 0x11 0, wordOf 0xFF 0xFC, fun w => .setdir (wordBit w 0) (wordBit w 1)⟩,
    ⟨"SETTXCAR",   wordOf 0x12 0, wordOf 0xFF 0xFE, fun w => .settxcar (wordBit w 0)⟩,
    ⟨"SETRXCAR",   wordOf 0x13 0, wordOf 0xFF 0xFE, fun w => .setrxcar (wordBit w 0)⟩,
    ⟨"ACKNC",      wordOf 0x14 0, wordOf 0xFF 0xFF, fun _ => .acknc⟩,
    ⟨"STATUS",     wordOf 0x15 0, wordOf 0xFF 0xFC, fun w => .status (wordIndex w)⟩,
    ⟨"SETCDT",  wordOf 0x20 0, wordOf 0xFF 0x00, fun w => .setcdt (wordImm w)⟩,
    ⟨"SETLOSS", wordOf 0x21 0, wordOf 0xFF 0x00, fun w => .setloss (wordImm w)⟩,
    ⟨"SETWAIT", wordOf 0x22 0, wordOf 0xFF 0x00, fun w => .setwait (wordImm w)⟩,
    ⟨"SETOPT",  wordOf 0x23 0, wordOf 0xFF 0xFC, fun w => .setopt (wordBit w 0) (wordBit w 1)⟩,
    ⟨"CFGRD",   wordOf 0x24 0, wordOf 0xFF 0xFC, fun w => .cfgrd (cfgRegOf (wordIndex w))⟩,
    ⟨"DIAL",    wordOf 0x30 0, wordOf 0xFF 0xFE, fun w => .dial (wordBit w 0)⟩ ] := rfl

theorem wordOf_shift (hi lo : Byte) : (wordOf hi lo) >>> 8 = wordOf 0 hi := by
  apply BitVec.eq_of_toNat_eq
  have := hi.isLt; have := lo.isLt
  rw [BitVec.toNat_ushiftRight, wordOf_toNat, wordOf_toNat, Nat.shiftRight_eq_div_pow]
  simp; omega

theorem wordImm_wordOf (op imm : Byte) : wordImm (wordOf op imm) = imm := by
  apply BitVec.eq_of_getLsbD_eq; intro i hi
  simp [wordImm, wordOf_getLsbD, hi]

theorem wordBit_wordOf (op imm : Byte) {i : Nat} (h : i < 8) : wordBit (wordOf op imm) i = imm.getLsbD i := by
  rw [wordBit, wordOf_getLsbD, if_pos h]

theorem wordIndex_wordOf (op imm : Byte) : wordIndex (wordOf op imm) = imm.extractLsb' 0 2 := by
  apply BitVec.eq_of_getLsbD_eq; intro i hi
  have : i < 8 := by omega
  simp [wordIndex, wordOf_getLsbD, this]

theorem wordLow_wordOf (op imm : Byte) : (wordOf op imm).extractLsb' 0 1 = imm.extractLsb' 0 1 := by
  apply BitVec.eq_of_getLsbD_eq; intro i hi
  have : i < 8 := by omega
  simp [wordOf_getLsbD, this]

/-- The verdict of rule R87 read off `op` first: the one equation through which decoding is reasoned about. -/
def decodeByOp (op imm : Byte) : Decoded :=
  let legal (mask : Byte) (i : Instr) : Decoded :=
    if imm &&& mask = 0 then .instr i else .rejected .reservedBits
  if op = 0x00 then legal 0xFF .nop
  else if op = 0x01 then legal 0x00 (.txpush imm)
  else if op = 0x02 then legal 0xFF .rxpop
  else if op = 0x03 then legal 0xFF .rxpeek
  else if op = 0x04 then legal 0xFE (.fifolen (fifoSelOf (imm.getLsbD 0)))
  else if op = 0x05 then legal 0xFC (.fifoclr (imm.getLsbD 0) (imm.getLsbD 1))
  else if op = 0x10 then legal 0xFE (.setprofile (imm.extractLsb' 0 1))
  else if op = 0x11 then legal 0xFC (.setdir (imm.getLsbD 0) (imm.getLsbD 1))
  else if op = 0x12 then legal 0xFE (.settxcar (imm.getLsbD 0))
  else if op = 0x13 then legal 0xFE (.setrxcar (imm.getLsbD 0))
  else if op = 0x14 then legal 0xFF .acknc
  else if op = 0x15 then
    if imm = 3 then .rejected .reservedPage else legal 0xFC (.status (imm.extractLsb' 0 2))
  else if op = 0x20 then legal 0x00 (.setcdt imm)
  else if op = 0x21 then legal 0x00 (.setloss imm)
  else if op = 0x22 then legal 0x00 (.setwait imm)
  else if op = 0x23 then legal 0xFC (.setopt (imm.getLsbD 0) (imm.getLsbD 1))
  else if op = 0x24 then legal 0xFC (.cfgrd (cfgRegOf (imm.extractLsb' 0 2)))
  else if op = 0x30 then legal 0xFE (.dial (imm.getLsbD 0))
  else .rejected .illegalOpcode

/-- With the reserved bits 0, page 3 is `imm = 3`. -/
theorem page3 : ∀ imm : Byte, imm &&& 0xFC#8 = 0 → (imm.extractLsb' 0 2 = 3#2 ↔ imm = 3) := by decide

/-- The decoder on a word split into `op` and `imm`. -/
theorem decodeCommand_wordOf (op imm : Byte) : decodeCommand (wordOf op imm) = decodeByOp op imm := by
  unfold decodeCommand
  simp only [opcodeTable_eq, List.find?_cons, List.any_cons, List.any_nil, List.find?_nil,
    selects_wordOf, wordOf_shift]
  unfold decodeByOp
  by_cases e0 : op = 0x00#8
  · subst e0
    by_cases h : imm &&& 0xFF#8 = 0#8
    · simp [h]
    · simp [h, beq_eq_false_iff_ne.mpr h]
  by_cases e1 : op = 0x01#8
  · subst e1
    simp [wordImm_wordOf]
  by_cases e2 : op = 0x02#8
  · subst e2
    by_cases h : imm &&& 0xFF#8 = 0#8
    · simp [h]
    · simp [h, beq_eq_false_iff_ne.mpr h]
  by_cases e3 : op = 0x03#8
  · subst e3
    by_cases h : imm &&& 0xFF#8 = 0#8
    · simp [h]
    · simp [h, beq_eq_false_iff_ne.mpr h]
  by_cases e4 : op = 0x04#8
  · subst e4
    by_cases h : imm &&& 0xFE#8 = 0#8
    · simp [h, wordBit_wordOf]
    · simp [h, beq_eq_false_iff_ne.mpr h]
  by_cases e5 : op = 0x05#8
  · subst e5
    by_cases h : imm &&& 0xFC#8 = 0#8
    · simp [h, wordBit_wordOf]
    · simp [h, beq_eq_false_iff_ne.mpr h]
  by_cases e16 : op = 0x10#8
  · subst e16
    by_cases h : imm &&& 0xFE#8 = 0#8
    · simp [h, wordLow_wordOf]
    · simp [h, beq_eq_false_iff_ne.mpr h]
  by_cases e17 : op = 0x11#8
  · subst e17
    by_cases h : imm &&& 0xFC#8 = 0#8
    · simp [h, wordBit_wordOf]
    · simp [h, beq_eq_false_iff_ne.mpr h]
  by_cases e18 : op = 0x12#8
  · subst e18
    by_cases h : imm &&& 0xFE#8 = 0#8
    · simp [h, wordBit_wordOf]
    · simp [h, beq_eq_false_iff_ne.mpr h]
  by_cases e19 : op = 0x13#8
  · subst e19
    by_cases h : imm &&& 0xFE#8 = 0#8
    · simp [h, wordBit_wordOf]
    · simp [h, beq_eq_false_iff_ne.mpr h]
  by_cases e20 : op = 0x14#8
  · subst e20
    by_cases h : imm &&& 0xFF#8 = 0#8
    · simp [h]
    · simp [h, beq_eq_false_iff_ne.mpr h]
  by_cases e21 : op = 0x15#8
  · subst e21
    by_cases h : imm &&& 0xFC#8 = 0#8
    · simp [h, wordIndex_wordOf, page3 imm h]
    · have : imm ≠ 3#8 := by rintro rfl; exact h (by decide)
      simp [h, this, beq_eq_false_iff_ne.mpr h]
  by_cases e32 : op = 0x20#8
  · subst e32
    simp [wordImm_wordOf]
  by_cases e33 : op = 0x21#8
  · subst e33
    simp [wordImm_wordOf]
  by_cases e34 : op = 0x22#8
  · subst e34
    simp [wordImm_wordOf]
  by_cases e35 : op = 0x23#8
  · subst e35
    by_cases h : imm &&& 0xFC#8 = 0#8
    · simp [h, wordBit_wordOf]
    · simp [h, beq_eq_false_iff_ne.mpr h]
  by_cases e36 : op = 0x24#8
  · subst e36
    by_cases h : imm &&& 0xFC#8 = 0#8
    · simp [h, wordIndex_wordOf]
    · simp [h, beq_eq_false_iff_ne.mpr h]
  by_cases e48 : op = 0x30#8
  · subst e48
    by_cases h : imm &&& 0xFE#8 = 0#8
    · simp [h, wordBit_wordOf]
    · simp [h, beq_eq_false_iff_ne.mpr h]
  have ne : ∀ c : Byte, op ≠ c → (op == c) = false := fun c h => by simpa using h
  have nw : ∀ c : Byte, op ≠ c → (wordOf 0#8 c == wordOf 0#8 op) = false := fun c h => by
    simpa [wordOf_inj] using h.symm
  simp only [BitVec.ofNat_eq_ofNat, e0, e1, e2, e3, e4, e5, e16, e17, e18, e19, e20, e21, e32, e33, e34, e35, e36, e48,
    ne _ e0, ne _ e1, ne _ e2, ne _ e3, ne _ e4, ne _ e5, ne _ e16, ne _ e17, ne _ e18, ne _ e19, ne _ e20, ne _ e21, ne _ e32, ne _ e33, ne _ e34, ne _ e35, ne _ e36, ne _ e48,
    nw _ e0, nw _ e1, nw _ e2, nw _ e3, nw _ e4, nw _ e5, nw _ e16, nw _ e17, nw _ e18, nw _ e19, nw _ e20, nw _ e21, nw _ e32, nw _ e33, nw _ e34, nw _ e35, nw _ e36, nw _ e48, Bool.false_and, Bool.or_false, if_false, Bool.false_eq_true]
end Sys2Proof
end

