-- ==== Sys2Proof/Laws/Dispatching.lean ====
section
/-! SUPPORT. Which rule a TICK's framers run, by the state they find (43_modulator.md rule R175, 44_demodulator.md rule
R220). -/

namespace Sys2Proof.Machine

theorem txFrame_of_wait {s : State} (h : s.txState = .wait) : txFrame s = txWait s := by
  unfold txFrame; rw [h]; rfl

theorem txFrame_of_preamble {s : State} (h : s.txState = .preamble) : txFrame s = txPreamble s := by
  unfold txFrame; rw [h]; rfl

theorem txFrame_of_startBit {s : State} (h : s.txState = .startBit) : txFrame s = txStartBit s := by
  unfold txFrame; rw [h]; rfl

theorem txFrame_of_dataBit {s : State} (h : s.txState = .dataBit) : txFrame s = txDataBit s := by
  unfold txFrame; rw [h]; rfl

theorem txFrame_of_stopBit {s : State} (h : s.txState = .stopBit) : txFrame s = txStopBit s := by
  unfold txFrame; rw [h]; rfl

theorem txFrame_of_trail {s : State} (h : s.txState = .trail) : txFrame s = txTrail s := by
  unfold txFrame; rw [h]; rfl

theorem rxFrame_of_wait {bit : Bool} {s : State} (h : s.rxState = .wait) : rxFrame bit s = rxWait s := by
  unfold rxFrame; rw [h]

theorem rxFrame_of_preamble {bit : Bool} {s : State} (h : s.rxState = .preamble) :
    rxFrame bit s = rxPreambleCheck (countDecision bit s) := by
  unfold rxFrame; rw [h]

theorem rxFrame_of_startBit {bit : Bool} {s : State} (h : s.rxState = .startBit) :
    rxFrame bit s = rxStartBitCheck (countDecision bit s) := by
  unfold rxFrame; rw [h]

theorem rxFrame_of_dataBit {bit : Bool} {s : State} (h : s.rxState = .dataBit) :
    rxFrame bit s = rxDataBitCheck (countDecision bit s) := by
  unfold rxFrame; rw [h]

theorem rxFrame_of_stopBit {bit : Bool} {s : State} (h : s.rxState = .stopBit) :
    rxFrame bit s = rxStopBitCheck (countDecision bit s) := by
  unfold rxFrame; rw [h]

theorem rxFrame_of_carrier {bit : Bool} {s : State} (h : s.rxState = .carrier) :
    rxFrame bit s = carrierStep bit s := by
  unfold rxFrame; rw [h]

theorem rxFrame_of_noCarrier {bit : Bool} {s : State} (h : s.rxState = .noCarrier) : rxFrame bit s = s := by
  unfold rxFrame; rw [h]

theorem rxFrame_of_nop {bit : Bool} {s : State} (h : s.rxState = .nop) : rxFrame bit s = s := by
  unfold rxFrame; rw [h]

end Sys2Proof.Machine
end

