-- ==== Sys2Proof/Laws/Memory.lean ====
section
/-! SUPPORT. The laws of the byte memories: a read after a write, and the canonical form. -/

namespace Sys2Proof.Machine

/-- A write leaves every other index as it reads. -/
theorem memRead_memWrite_other (fill : Byte) (m : List Host.Cell) {i j : Nat} (v : Byte) (h : j ≠ i) :
    memRead fill (memWrite fill m i v) j = memRead fill m j := by
  induction m with
  | nil => unfold memWrite; split <;> simp [memRead, h.symm]
  | cons c m ih =>
    obtain ⟨a, x⟩ := c
    unfold memWrite
    split
    · split <;> simp [memRead, h.symm]
    · split
      · next e => subst e; split <;> simp [memRead, h.symm]
      · simp only [memRead, ih]

/-- Below the first listed address nothing is listed. -/
theorem memRead_below {fill : Byte} {hi lo i : Nat} {m : List Host.Cell} (h : memWfFrom fill hi lo m = true)
    (hi' : i < lo) : memRead fill m i = fill := by
  induction m generalizing lo with
  | nil => rfl
  | cons c m ih =>
    obtain ⟨a, x⟩ := c
    simp only [memWfFrom, Bool.and_eq_true, decide_eq_true_eq] at h
    have : a ≠ i := by omega
    simp only [memRead, this, if_false]
    exact ih h.2 (by omega)

theorem memRead_memWrite_same_from {fill : Byte} {hi lo i : Nat} {m : List Host.Cell} (v : Byte)
    (h : memWfFrom fill hi lo m = true) : memRead fill (memWrite fill m i v) i = v := by
  induction m generalizing lo with
  | nil => unfold memWrite; split <;> simp_all [memRead]
  | cons c m ih =>
    obtain ⟨a, x⟩ := c
    simp only [memWfFrom, Bool.and_eq_true, decide_eq_true_eq] at h
    unfold memWrite
    split
    · split
      · next hlt e =>
        have : a ≠ i := by omega
        simp only [memRead, this, if_false, e]
        exact memRead_below h.2 (by omega)
      · simp [memRead]
    · split
      · next e =>
        subst e
        split
        · next ev => rw [ev]; exact memRead_below h.2 (by omega)
        · simp [memRead]
      · next e =>
        have : a ≠ i := fun h => e h.symm
        simp only [memRead, this, if_false]
        exact ih h.2

/-- In canonical form a write is read back. -/
theorem memRead_memWrite_same {fill : Byte} {size i : Nat} {m : List Host.Cell} (v : Byte)
    (h : memWf fill size m = true) : memRead fill (memWrite fill m i v) i = v :=
  memRead_memWrite_same_from v h

theorem memWfFrom_mono {fill : Byte} {hi lo lo' : Nat} {m : List Host.Cell} (h : memWfFrom fill hi lo m = true)
    (hl : lo' ≤ lo) : memWfFrom fill hi lo' m = true := by
  cases m with
  | nil => rfl
  | cons c m =>
    obtain ⟨a, x⟩ := c
    simp only [memWfFrom, Bool.and_eq_true, decide_eq_true_eq] at h ⊢
    exact ⟨⟨⟨by omega, h.1.1.2⟩, h.1.2⟩, h.2⟩

theorem memWfFrom_memWrite {fill : Byte} {hi lo i : Nat} {m : List Host.Cell} (v : Byte)
    (h : memWfFrom fill hi lo m = true) (hl : lo ≤ i) (hh : i < hi) :
    memWfFrom fill hi lo (memWrite fill m i v) = true := by
  induction m generalizing lo with
  | nil => unfold memWrite; split <;> simp_all [memWfFrom]
  | cons c m ih =>
    obtain ⟨a, x⟩ := c
    have h' := h
    simp only [memWfFrom, Bool.and_eq_true, decide_eq_true_eq] at h'
    unfold memWrite
    split
    · split
      · exact h
      · next hlt hv =>
        simp only [memWfFrom, Bool.and_eq_true, decide_eq_true_eq]
        exact ⟨⟨⟨hl, hh⟩, hv⟩, ⟨⟨by omega, h'.1.1.2⟩, h'.1.2⟩, h'.2⟩
    · split
      · next e =>
        subst e
        split
        · exact memWfFrom_mono h'.2 (by omega)
        · next hv =>
          simp only [memWfFrom, Bool.and_eq_true, decide_eq_true_eq]
          exact ⟨⟨⟨hl, hh⟩, hv⟩, h'.2⟩
      · simp only [memWfFrom, Bool.and_eq_true, decide_eq_true_eq]
        exact ⟨h'.1, ih h'.2 (by omega)⟩

/-- Every write inside the memory keeps the canonical form. -/
theorem memWf_memWrite {fill : Byte} {size i : Nat} {m : List Host.Cell} (v : Byte)
    (h : memWf fill size m = true) (hi : i < size) : memWf fill size (memWrite fill m i v) = true :=
  memWfFrom_memWrite v h (Nat.zero_le _) hi

/-- In canonical form, writing what an index already reads changes nothing. -/
theorem memWrite_read_from {fill : Byte} {hi lo i : Nat} {m : List Host.Cell}
    (h : memWfFrom fill hi lo m = true) : memWrite fill m i (memRead fill m i) = m := by
  induction m generalizing lo with
  | nil => simp [memWrite, memRead]
  | cons c m ih =>
    obtain ⟨a, x⟩ := c
    simp only [memWfFrom, Bool.and_eq_true, decide_eq_true_eq] at h
    rcases Nat.lt_trichotomy i a with hlt | heq | hgt
    · have hne : a ≠ i := by omega
      have : memRead fill m i = fill := memRead_below h.2 (by omega)
      simp [memWrite, memRead, hne, hlt, this]
    · subst heq
      simp [memWrite, memRead, h.1.2]
    · have hne : a ≠ i := by omega
      have hne' : ¬ i < a := by omega
      simp [memWrite, memRead, hne, hne', hne.symm, ih h.2]

theorem memWrite_read {fill : Byte} {size i : Nat} {m : List Host.Cell} {v : Byte}
    (h : memWf fill size m = true) (hv : memRead fill m i = v) : memWrite fill m i v = m :=
  hv ▸ memWrite_read_from h

/-! The fill of `Reconfigure`. -/

theorem memWf_memFill {fill v : Byte} {size n : Nat} {m : List Host.Cell}
    (h : memWf fill size m = true) (hn : n ≤ size) : memWf fill size (memFill fill v m n) = true := by
  induction n with
  | zero => exact h
  | succ n ih => exact memWf_memWrite v (ih (by omega)) (by omega)

theorem memRead_memFill_other (fill v : Byte) (m : List Host.Cell) {n i : Nat} (h : n ≤ i) :
    memRead fill (memFill fill v m n) i = memRead fill m i := by
  induction n with
  | zero => rfl
  | succ n ih => rw [memFill, memRead_memWrite_other _ _ _ (by omega), ih (by omega)]

theorem memWfFrom_memFill {fill v : Byte} {size n : Nat} {m : List Host.Cell} (hi : Nat)
    (h : memWf fill size m = true) (hn : max size n ≤ hi) : memWf fill hi (memFill fill v m n) = true := by
  have weaken : ∀ (l : List Host.Cell) (lo : Nat), memWfFrom fill size lo l = true → memWfFrom fill hi lo l = true := by
    intro l
    induction l with
    | nil => intros; rfl
    | cons c l ih =>
      obtain ⟨a, x⟩ := c
      intro lo hl
      simp only [memWfFrom, Bool.and_eq_true, decide_eq_true_eq] at hl ⊢
      exact ⟨⟨⟨hl.1.1.1, by omega⟩, hl.1.2⟩, ih _ hl.2⟩
  exact memWf_memFill (weaken m 0 h) (by omega)

theorem memRead_memFill_same {fill v : Byte} {size n i : Nat} {m : List Host.Cell}
    (h : memWf fill size m = true) (hi : i < n) : memRead fill (memFill fill v m n) i = v := by
  induction n with
  | zero => omega
  | succ n ih =>
    have hw : memWf fill (max size n) (memFill fill v m n) = true := memWfFrom_memFill _ h (Nat.le_refl _)
    rw [memFill]
    rcases Nat.lt_or_ge i n with hlt | hge
    · rw [memRead_memWrite_other _ _ _ (by omega), ih hlt]
    · obtain rfl : i = n := by omega
      exact memRead_memWrite_same v hw

/-- Filling entries that already hold the value changes nothing. -/
theorem memFill_of_read {fill v : Byte} {size n : Nat} {m : List Host.Cell}
    (h : memWf fill size m = true) (hr : ∀ i, i < n → memRead fill m i = v) : memFill fill v m n = m := by
  induction n with
  | zero => rfl
  | succ n ih =>
    rw [memFill, ih (fun i hi => hr i (by omega))]
    exact memWrite_read h (hr n (by omega))

/-! The pop and push of the delay line. -/

theorem memWf_memShift {fill : Byte} {size n : Nat} {m : List Host.Cell}
    (h : memWf fill size m = true) (hn : n ≤ size) : memWf fill size (memShift fill m n) = true := by
  induction n with
  | zero => exact h
  | succ n ih => exact memWf_memWrite _ (ih (by omega)) (by omega)

theorem memRead_memShift_ge (fill : Byte) (m : List Host.Cell) {n i : Nat} (h : n ≤ i) :
    memRead fill (memShift fill m n) i = memRead fill m i := by
  induction n with
  | zero => rfl
  | succ n ih => rw [memShift, memRead_memWrite_other _ _ _ (by omega), ih (by omega)]

theorem memRead_memShift_lt {fill : Byte} {size n i : Nat} {m : List Host.Cell}
    (h : memWf fill size m = true) (hn : n ≤ size) (hi : i < n) :
    memRead fill (memShift fill m n) i = memRead fill m (i + 1) := by
  induction n with
  | zero => omega
  | succ n ih =>
    rw [memShift]
    rcases Nat.lt_or_ge i n with hlt | hge
    · rw [memRead_memWrite_other _ _ _ (by omega), ih (by omega) hlt]
    · obtain rfl : i = n := by omega
      rw [memRead_memWrite_same _ (memWf_memShift h (by omega)), memRead_memShift_ge _ _ (by omega)]

theorem memWf_delayPush {size q : Nat} {m : List Host.Cell} (raw : Byte)
    (h : memWf dlFill size m = true) (hq : q ≤ size) (h0 : 1 ≤ q) : memWf dlFill size (delayPush q m raw) = true :=
  memWf_memWrite raw (memWf_memShift h (by omega)) (by omega)

/-- The entries move one place down (rule R63). -/
theorem memRead_delayPush_lt {size q k : Nat} {m : List Host.Cell} (raw : Byte)
    (h : memWf dlFill size m = true) (hq : q ≤ size) (hk : k + 1 < q) :
    memRead dlFill (delayPush q m raw) k = memRead dlFill m (k + 1) := by
  rw [delayPush, memRead_memWrite_other _ _ _ (by omega), memRead_memShift_lt h (by omega) (by omega)]

/-- The pushed sample is the newest entry (rule R63). -/
theorem memRead_delayPush_last {size q k : Nat} {m : List Host.Cell} (raw : Byte)
    (h : memWf dlFill size m = true) (hq : q ≤ size) (hk : k + 1 = q) :
    memRead dlFill (delayPush q m raw) k = raw := by
  obtain rfl : k = q - 1 := by omega
  exact memRead_memWrite_same raw (memWf_memShift h (by omega))

/-- The entries that are not live stay as they are (rule R63). -/
theorem memRead_delayPush_ge {q a : Nat} (m : List Host.Cell) (raw : Byte) (h : q ≤ a) (h0 : 1 ≤ q) :
    memRead dlFill (delayPush q m raw) a = memRead dlFill m a := by
  rw [delayPush, memRead_memWrite_other _ _ _ (by omega), memRead_memShift_ge _ _ (by omega)]

end Sys2Proof.Machine
end

