-- ==== Sys2Proof/Laws/Fifo.lean ====
section
/-! SUPPORT. The laws of the FIFO primitives, stated through the stored bytes (42_fifo.md rules R140 to R148).
The indices enter only as positions below `F.CAP`. -/

namespace Sys2Proof.Machine

theorem Fifo.cap_pos (bits : Nat) : 0 < Fifo.cap bits := Nat.two_pow_pos bits

theorem Fifo.cap_ge {bits : Nat} (h : 1 ≤ bits) : 2 ≤ Fifo.cap bits :=
  Nat.le_self_pow (by omega) 2

theorem Fifo.cap_le {bits : Nat} (h : bits ≤ 8) : Fifo.cap bits ≤ 256 :=
  Nat.pow_le_pow_right (by decide) h

theorem Fifo.wrap_lt (bits n : Nat) : Fifo.wrap bits n < Fifo.cap bits := Nat.mod_lt _ (Fifo.cap_pos bits)

theorem Fifo.inPos_lt (bits : Nat) (f : Fifo) : f.inPos bits < Fifo.cap bits := Fifo.wrap_lt _ _

theorem Fifo.outPos_lt (bits : Nat) (f : Fifo) : f.outPos bits < Fifo.cap bits := Fifo.wrap_lt _ _

theorem Fifo.wrap_of_lt {bits n : Nat} (h : n < Fifo.cap bits) : Fifo.wrap bits n = n := Nat.mod_eq_of_lt h

theorem Fifo.wrap_add_cap {bits n : Nat} : Fifo.wrap bits (Fifo.cap bits + n) = Fifo.wrap bits n := by
  simp [Fifo.wrap]

/-- Index arithmetic below twice `F.CAP`. -/
theorem Fifo.wrap_cases {bits n : Nat} (h : n < 2 * Fifo.cap bits) :
    (n < Fifo.cap bits ∧ Fifo.wrap bits n = n) ∨
      (Fifo.cap bits ≤ n ∧ Fifo.wrap bits n = n - Fifo.cap bits) := by
  rcases Nat.lt_or_ge n (Fifo.cap bits) with h1 | h1
  · exact .inl ⟨h1, Fifo.wrap_of_lt h1⟩
  · refine .inr ⟨h1, ?_⟩
    rw [Fifo.wrap, Nat.mod_eq_sub_mod h1, Nat.mod_eq_of_lt (by omega)]

theorem Fifo.isEmpty_iff (bits : Nat) (f : Fifo) : f.isEmpty bits = true ↔ f.inPos bits = f.outPos bits := by
  simp [Fifo.isEmpty]

/-- `Len` as a difference of positions (rule R143). -/
theorem Fifo.len_cases (bits : Nat) (f : Fifo) :
    (f.outPos bits ≤ f.inPos bits ∧ f.len bits = f.inPos bits - f.outPos bits) ∨
      (f.inPos bits < f.outPos bits ∧ f.len bits = Fifo.cap bits + f.inPos bits - f.outPos bits) := by
  have hi := f.inPos_lt bits
  have ho := f.outPos_lt bits
  unfold Fifo.len
  rcases Fifo.wrap_cases (bits := bits) (n := Fifo.cap bits + f.inPos bits - f.outPos bits) (by omega) with h | h
  · exact .inr ⟨by omega, h.2⟩
  · exact .inl ⟨by omega, by omega⟩

theorem Fifo.len_lt (bits : Nat) (f : Fifo) : f.len bits < Fifo.cap bits := Fifo.wrap_lt _ _

theorem Fifo.isEmpty_iff_len (bits : Nat) (f : Fifo) : f.isEmpty bits = true ↔ f.len bits = 0 := by
  have hi := f.inPos_lt bits
  have ho := f.outPos_lt bits
  rw [Fifo.isEmpty_iff]
  rcases f.len_cases bits with h | h <;> omega

theorem Fifo.isFull_iff_len {bits : Nat} (f : Fifo) (hb : 1 ≤ bits) :
    f.isFull bits = true ↔ f.len bits = Fifo.cap bits - 1 := by
  have hi := f.inPos_lt bits
  have ho := f.outPos_lt bits
  have hc := Fifo.cap_ge hb
  simp only [Fifo.isFull, beq_iff_eq]
  rcases Fifo.wrap_cases (bits := bits) (n := Fifo.cap bits + f.outPos bits - f.inPos bits) (by omega) with h | h <;>
    rcases f.len_cases bits with h' | h' <;> omega

/-! The stored bytes. -/

theorem Fifo.bytesFrom_length (bits : Nat) (f : Fifo) (pos n : Nat) : (f.bytesFrom bits pos n).length = n := by
  induction n generalizing pos with
  | zero => rfl
  | succ n ih => simp [Fifo.bytesFrom, ih]

theorem Fifo.contents_length (bits : Nat) (f : Fifo) : (f.contents bits).length = f.len bits :=
  f.bytesFrom_length bits _ _

theorem Fifo.bytesFrom_succ_last (bits : Nat) (f : Fifo) (pos n : Nat) :
    f.bytesFrom bits pos (n + 1) = f.bytesFrom bits pos n ++ [memRead fifoFill f.buf (Fifo.wrap bits (pos + n))] := by
  induction n generalizing pos with
  | zero => rfl
  | succ n ih =>
    rw [Fifo.bytesFrom, ih (pos + 1), Fifo.bytesFrom, List.cons_append, Nat.add_right_comm, Nat.add_assoc pos n 1]

/-- Reading stays the same where the memory does. -/
theorem Fifo.bytesFrom_congr {bits : Nat} {f g : Fifo} {pos n : Nat}
    (h : ∀ k, k < n → memRead fifoFill f.buf (Fifo.wrap bits (pos + k)) = memRead fifoFill g.buf (Fifo.wrap bits (pos + k))) :
    f.bytesFrom bits pos n = g.bytesFrom bits pos n := by
  induction n generalizing pos with
  | zero => rfl
  | succ n ih =>
    rw [Fifo.bytesFrom_succ_last, Fifo.bytesFrom_succ_last, ih (fun k hk => h k (by omega)), h n (by omega)]

/-- A reading position may be wrapped. -/
theorem Fifo.bytesFrom_wrap (bits : Nat) (f : Fifo) (pos n : Nat) :
    f.bytesFrom bits (Fifo.wrap bits pos) n = f.bytesFrom bits pos n := by
  induction n generalizing pos with
  | zero => rfl
  | succ n ih =>
    have h1 : Fifo.wrap bits (Fifo.wrap bits pos) = Fifo.wrap bits pos := Nat.mod_mod _ _
    have h2 : Fifo.wrap bits (Fifo.wrap bits pos + 1) = Fifo.wrap bits (pos + 1) := by simp [Fifo.wrap]
    rw [Fifo.bytesFrom, Fifo.bytesFrom, h1, ← ih (Fifo.wrap bits pos + 1), h2, ih]

theorem Fifo.contents_nil_iff (bits : Nat) (f : Fifo) : f.contents bits = [] ↔ f.isEmpty bits = true := by
  rw [Fifo.isEmpty_iff_len, ← f.contents_length bits, List.length_eq_zero_iff]

/-! Index registers. -/

theorem Fifo.next_toNat {bits : Nat} (pos : Nat) (hb : bits ≤ 8) :
    (Fifo.next bits pos).toNat = Fifo.wrap bits (pos + 1) := by
  have := Fifo.wrap_lt bits (pos + 1)
  have := Fifo.cap_le hb
  rw [Fifo.next, BitVec.toNat_ofNat, Nat.mod_eq_of_lt (by omega)]

theorem Fifo.wf_iff (bits : Nat) (f : Fifo) :
    f.wf bits = true ↔ memWf fifoFill (Fifo.cap bits) f.buf = true ∧ f.inIdx.toNat < Fifo.cap bits ∧
      f.outIdx.toNat < Fifo.cap bits := by
  simp [Fifo.wf, and_assoc]

theorem Fifo.wf_reset (bits : Nat) : Fifo.reset.wf bits = true := by
  have := Fifo.cap_pos bits
  simp [Fifo.wf_iff, Fifo.reset, memWf, memWfFrom, this]

/-! `TryPush`. -/

theorem Fifo.push_of_full {bits : Nat} {f : Fifo} (b : Byte) (h : f.isFull bits = true) : f.push bits b = f := by
  simp [Fifo.push, h]

theorem Fifo.push_of_not_full {bits : Nat} {f : Fifo} (b : Byte) (h : f.isFull bits = false) :
    f.push bits b =
      { f with buf := memWrite fifoFill f.buf (f.inPos bits) b, inIdx := Fifo.next bits (f.inPos bits) } := by
  simp [Fifo.push, h]

theorem Fifo.push_outIdx (bits : Nat) (f : Fifo) (b : Byte) : (f.push bits b).outIdx = f.outIdx := by
  unfold Fifo.push; split <;> rfl

/-- `TryPush` writes the entry at `F.IN` and no other. -/
theorem Fifo.push_read_other {bits a : Nat} (f : Fifo) (b : Byte) (h : a ≠ f.inPos bits) :
    memRead fifoFill (f.push bits b).buf a = memRead fifoFill f.buf a := by
  unfold Fifo.push
  split
  · rfl
  · exact memRead_memWrite_other _ _ _ h

theorem Fifo.wf_push {bits : Nat} {f : Fifo} (b : Byte) (hb : bits ≤ 8) (h : f.wf bits = true) :
    (f.push bits b).wf bits = true := by
  unfold Fifo.push
  split
  · exact h
  · rw [Fifo.wf_iff] at h ⊢
    refine ⟨memWf_memWrite b h.1 (f.inPos_lt bits), ?_, h.2.2⟩
    rw [Fifo.next_toNat _ hb]
    exact Fifo.wrap_lt _ _

theorem Fifo.len_push {bits : Nat} {f : Fifo} (b : Byte) (hb : 1 ≤ bits) (hb' : bits ≤ 8)
    (h : f.isFull bits = false) : (f.push bits b).len bits = f.len bits + 1 := by
  have hf : ¬ f.len bits = Fifo.cap bits - 1 := by rw [← f.isFull_iff_len hb]; simp [h]
  rw [Fifo.push_of_not_full b h]
  generalize hg : ({ f with buf := memWrite fifoFill f.buf (f.inPos bits) b,
                            inIdx := Fifo.next bits (f.inPos bits) } : Fifo) = g
  have hin : g.inPos bits = Fifo.wrap bits (f.inPos bits + 1) := by
    rw [← hg]; unfold Fifo.inPos; dsimp only; rw [Fifo.next_toNat _ hb']; exact Nat.mod_mod _ _
  have hout : g.outPos bits = f.outPos bits := by rw [← hg]; rfl
  have := f.inPos_lt bits
  have := f.outPos_lt bits
  have := f.len_lt bits
  have := g.len_lt bits
  rcases Fifo.wrap_cases (bits := bits) (n := f.inPos bits + 1) (by omega) with h1 | h1 <;>
    rcases f.len_cases bits with h2 | h2 <;> rcases g.len_cases bits with h3 | h3 <;> omega

/-- The position behind the stored bytes is `F.IN` (rules R143 and R148). -/
theorem Fifo.wrap_outPos_add_len (bits : Nat) (f : Fifo) :
    Fifo.wrap bits (f.outPos bits + f.len bits) = f.inPos bits := by
  have := f.inPos_lt bits
  have := f.outPos_lt bits
  rcases f.len_cases bits with h | h <;>
    rcases Fifo.wrap_cases (bits := bits) (n := f.outPos bits + f.len bits) (by omega) with h1 | h1 <;> omega

/-- The positions of the stored bytes are not `F.IN`. -/
theorem Fifo.stored_ne_inPos {bits k : Nat} (f : Fifo) (h : k < f.len bits) :
    Fifo.wrap bits (f.outPos bits + k) ≠ f.inPos bits := by
  have := f.inPos_lt bits
  have := f.outPos_lt bits
  have := f.len_lt bits
  rcases f.len_cases bits with h2 | h2 <;>
    rcases Fifo.wrap_cases (bits := bits) (n := f.outPos bits + k) (by omega) with h1 | h1 <;> omega

/-- `TryPush` on a FIFO with room puts the byte behind the stored ones (rule R144). -/
theorem Fifo.contents_push {bits : Nat} {f : Fifo} (b : Byte) (hb : 1 ≤ bits) (hb' : bits ≤ 8)
    (hw : f.wf bits = true) (h : f.isFull bits = false) :
    (f.push bits b).contents bits = f.contents bits ++ [b] := by
  have hout : (f.push bits b).outPos bits = f.outPos bits := by unfold Fifo.outPos; rw [Fifo.push_outIdx]
  unfold Fifo.contents
  rw [Fifo.len_push b hb hb' h, Fifo.bytesFrom_succ_last, hout, Fifo.wrap_outPos_add_len]
  congr 1
  · exact Fifo.bytesFrom_congr fun k hk => Fifo.push_read_other f b (f.stored_ne_inPos hk)
  · rw [Fifo.push_of_not_full b h]
    exact congrArg (fun x => [x]) (memRead_memWrite_same b ((Fifo.wf_iff _ _).mp hw).1)

/-! `Pop`, `Peek` and `Clear`. -/

theorem Fifo.pop_buf (bits : Nat) (f : Fifo) : (f.pop bits).buf = f.buf := by unfold Fifo.pop; split <;> rfl

theorem Fifo.pop_inIdx (bits : Nat) (f : Fifo) : (f.pop bits).inIdx = f.inIdx := by unfold Fifo.pop; split <;> rfl

theorem Fifo.pop_of_empty {bits : Nat} {f : Fifo} (h : f.isEmpty bits = true) : f.pop bits = f := by
  simp [Fifo.pop, h]

theorem Fifo.peek_of_empty {bits : Nat} {f : Fifo} (h : f.isEmpty bits = true) : f.peek bits = 0x00 := by
  simp [Fifo.peek, h]

theorem Fifo.wf_pop {bits : Nat} {f : Fifo} (hb : bits ≤ 8) (h : f.wf bits = true) : (f.pop bits).wf bits = true := by
  unfold Fifo.pop
  split
  · exact h
  · rw [Fifo.wf_iff] at h ⊢
    refine ⟨h.1, h.2.1, ?_⟩
    rw [Fifo.next_toNat _ hb]
    exact Fifo.wrap_lt _ _

/-- `Pop` takes the oldest byte away (rule R145), and `Peek` is that byte (rule R146). -/
theorem Fifo.contents_pop {bits : Nat} {f : Fifo} {b : Byte} {rest : List Byte} (hb : bits ≤ 8)
    (h : f.contents bits = b :: rest) : f.peek bits = b ∧ (f.pop bits).contents bits = rest := by
  have hne : f.isEmpty bits = false := by
    rw [← Bool.not_eq_true, ← Fifo.contents_nil_iff, h]; simp
  obtain ⟨n, hn⟩ : ∃ n, f.len bits = n + 1 := ⟨rest.length, by rw [← f.contents_length bits, h]; rfl⟩
  have hc : memRead fifoFill f.buf (Fifo.wrap bits (f.outPos bits)) :: f.bytesFrom bits (f.outPos bits + 1) n =
      b :: rest := by rw [← h, Fifo.contents, hn]; rfl
  rw [Fifo.wrap_of_lt (f.outPos_lt bits)] at hc
  injection hc with h1 h2
  refine ⟨by simp [Fifo.peek, hne, h1], ?_⟩
  rw [Fifo.pop, hne, if_neg Bool.false_ne_true]
  generalize hg : ({ f with outIdx := Fifo.next bits (f.outPos bits) } : Fifo) = g
  have hin : g.inPos bits = f.inPos bits := by rw [← hg]; rfl
  have hout : g.outPos bits = Fifo.wrap bits (f.outPos bits + 1) := by
    rw [← hg]; unfold Fifo.outPos; dsimp only; rw [Fifo.next_toNat _ hb]; exact Nat.mod_mod _ _
  have hlen : g.len bits = n := by
    have := f.inPos_lt bits
    have := f.outPos_lt bits
    have := f.len_lt bits
    have := g.len_lt bits
    rcases Fifo.wrap_cases (bits := bits) (n := f.outPos bits + 1) (by omega) with h1 | h1 <;>
      rcases f.len_cases bits with h2 | h2 <;> rcases g.len_cases bits with h3 | h3 <;> omega
  rw [Fifo.contents, hout, hlen, Fifo.bytesFrom_wrap, ← h2]
  exact Fifo.bytesFrom_congr fun k _ => by rw [← hg]

theorem Fifo.contents_clear (bits : Nat) (f : Fifo) : f.clear.contents bits = [] := by
  rw [Fifo.contents_nil_iff, Fifo.isEmpty_iff]; rfl

theorem Fifo.wf_clear {bits : Nat} {f : Fifo} (h : f.wf bits = true) : f.clear.wf bits = true := by
  have hp := Fifo.cap_pos bits
  rw [Fifo.wf_iff] at h ⊢
  exact ⟨h.1, hp, hp⟩

end Sys2Proof.Machine
end

