-- ==== Sys2Proof/Laws/State.lean ====
section
/-! SUPPORT. The laws of the state updates that the operations share: what each field holds after each of them. -/

namespace Sys2Proof.Machine

/-! `State.respond`. -/

@[simp] theorem State.respond_build (s : State) (e f : Bool) (d : Byte) : (s.respond e f d).build = s.build := rfl
@[simp] theorem State.respond_cfgProfile (s : State) (e f : Bool) (d : Byte) : (s.respond e f d).cfgProfile = s.cfgProfile := rfl
@[simp] theorem State.respond_cfgDir (s : State) (e f : Bool) (d : Byte) : (s.respond e f d).cfgDir = s.cfgDir := rfl
@[simp] theorem State.respond_cfgCdTenths (s : State) (e f : Bool) (d : Byte) : (s.respond e f d).cfgCdTenths = s.cfgCdTenths := rfl
@[simp] theorem State.respond_cfgLossTenths (s : State) (e f : Bool) (d : Byte) : (s.respond e f d).cfgLossTenths = s.cfgLossTenths := rfl
@[simp] theorem State.respond_cfgWaitSeconds (s : State) (e f : Bool) (d : Byte) : (s.respond e f d).cfgWaitSeconds = s.cfgWaitSeconds := rfl
@[simp] theorem State.respond_cfgOpt (s : State) (e f : Bool) (d : Byte) : (s.respond e f d).cfgOpt = s.cfgOpt := rfl
@[simp] theorem State.respond_txCarrierOn (s : State) (e f : Bool) (d : Byte) : (s.respond e f d).txCarrierOn = s.txCarrierOn := rfl
@[simp] theorem State.respond_dialMode (s : State) (e f : Bool) (d : Byte) : (s.respond e f d).dialMode = s.dialMode := rfl
@[simp] theorem State.respond_txState (s : State) (e f : Bool) (d : Byte) : (s.respond e f d).txState = s.txState := rfl
@[simp] theorem State.respond_txActive (s : State) (e f : Bool) (d : Byte) : (s.respond e f d).txActive = s.txActive := rfl
@[simp] theorem State.respond_txSym (s : State) (e f : Bool) (d : Byte) : (s.respond e f d).txSym = s.txSym := rfl
@[simp] theorem State.respond_txByte (s : State) (e f : Bool) (d : Byte) : (s.respond e f d).txByte = s.txByte := rfl
@[simp] theorem State.respond_txSr (s : State) (e f : Bool) (d : Byte) : (s.respond e f d).txSr = s.txSr := rfl
@[simp] theorem State.respond_txBits (s : State) (e f : Bool) (d : Byte) : (s.respond e f d).txBits = s.txBits := rfl
@[simp] theorem State.respond_txPhase (s : State) (e f : Bool) (d : Byte) : (s.respond e f d).txPhase = s.txPhase := rfl
@[simp] theorem State.respond_txCnt (s : State) (e f : Bool) (d : Byte) : (s.respond e f d).txCnt = s.txCnt := rfl
@[simp] theorem State.respond_rxState (s : State) (e f : Bool) (d : Byte) : (s.respond e f d).rxState = s.rxState := rfl
@[simp] theorem State.respond_rxHist (s : State) (e f : Bool) (d : Byte) : (s.respond e f d).rxHist = s.rxHist := rfl
@[simp] theorem State.respond_rxBitsum (s : State) (e f : Bool) (d : Byte) : (s.respond e f d).rxBitsum = s.rxBitsum := rfl
@[simp] theorem State.respond_rxCnt (s : State) (e f : Bool) (d : Byte) : (s.respond e f d).rxCnt = s.rxCnt := rfl
@[simp] theorem State.respond_rxByte (s : State) (e f : Bool) (d : Byte) : (s.respond e f d).rxByte = s.rxByte := rfl
@[simp] theorem State.respond_rxBits (s : State) (e f : Bool) (d : Byte) : (s.respond e f d).rxBits = s.rxBits := rfl
@[simp] theorem State.respond_iirX0 (s : State) (e f : Bool) (d : Byte) : (s.respond e f d).iirX0 = s.iirX0 := rfl
@[simp] theorem State.respond_iirX1 (s : State) (e f : Bool) (d : Byte) : (s.respond e f d).iirX1 = s.iirX1 := rfl
@[simp] theorem State.respond_iirY0 (s : State) (e f : Bool) (d : Byte) : (s.respond e f d).iirY0 = s.iirY0 := rfl
@[simp] theorem State.respond_iirY1 (s : State) (e f : Bool) (d : Byte) : (s.respond e f d).iirY1 = s.iirY1 := rfl
@[simp] theorem State.respond_carrierLocked (s : State) (e f : Bool) (d : Byte) : (s.respond e f d).carrierLocked = s.carrierLocked := rfl
@[simp] theorem State.respond_cdStreak (s : State) (e f : Bool) (d : Byte) : (s.respond e f d).cdStreak = s.cdStreak := rfl
@[simp] theorem State.respond_waitCnt (s : State) (e f : Bool) (d : Byte) : (s.respond e f d).waitCnt = s.waitCnt := rfl
@[simp] theorem State.respond_lossCnt (s : State) (e f : Bool) (d : Byte) : (s.respond e f d).lossCnt = s.lossCnt := rfl
@[simp] theorem State.respond_acqFailed (s : State) (e f : Bool) (d : Byte) : (s.respond e f d).acqFailed = s.acqFailed := rfl
@[simp] theorem State.respond_txf (s : State) (e f : Bool) (d : Byte) : (s.respond e f d).txf = s.txf := rfl
@[simp] theorem State.respond_rxf (s : State) (e f : Bool) (d : Byte) : (s.respond e f d).rxf = s.rxf := rfl
@[simp] theorem State.respond_dl (s : State) (e f : Bool) (d : Byte) : (s.respond e f d).dl = s.dl := rfl
@[simp] theorem State.respond_txSample (s : State) (e f : Bool) (d : Byte) : (s.respond e f d).txSample = s.txSample := rfl
@[simp] theorem State.respond_rsp (s : State) (e f : Bool) (d : Byte) : (s.respond e f d).rsp = responseWord e f d := rfl
@[simp] theorem State.respond_dtmfSend (s : State) (e f : Bool) (d : Byte) : (s.respond e f d).dtmfSend = s.dtmfSend := rfl
@[simp] theorem State.respond_dtmfActive (s : State) (e f : Bool) (d : Byte) : (s.respond e f d).dtmfActive = s.dtmfActive := rfl
@[simp] theorem State.respond_dtmfSample (s : State) (e f : Bool) (d : Byte) : (s.respond e f d).dtmfSample = s.dtmfSample := rfl
@[simp] theorem State.respond_input (s : State) (e f : Bool) (d : Byte) : (s.respond e f d).input = s.input := rfl

/-! `State.reconfigure`. -/

@[simp] theorem State.reconfigure_build (s : State) : s.reconfigure.build = s.build := rfl
@[simp] theorem State.reconfigure_cfgProfile (s : State) : s.reconfigure.cfgProfile = s.cfgProfile := rfl
@[simp] theorem State.reconfigure_cfgDir (s : State) : s.reconfigure.cfgDir = s.cfgDir := rfl
@[simp] theorem State.reconfigure_cfgCdTenths (s : State) : s.reconfigure.cfgCdTenths = s.cfgCdTenths := rfl
@[simp] theorem State.reconfigure_cfgLossTenths (s : State) : s.reconfigure.cfgLossTenths = s.cfgLossTenths := rfl
@[simp] theorem State.reconfigure_cfgWaitSeconds (s : State) : s.reconfigure.cfgWaitSeconds = s.cfgWaitSeconds := rfl
@[simp] theorem State.reconfigure_cfgOpt (s : State) : s.reconfigure.cfgOpt = s.cfgOpt := rfl
@[simp] theorem State.reconfigure_txCarrierOn (s : State) : s.reconfigure.txCarrierOn = false := rfl
@[simp] theorem State.reconfigure_dialMode (s : State) : s.reconfigure.dialMode = s.dialMode := rfl
@[simp] theorem State.reconfigure_txState (s : State) : s.reconfigure.txState = s.txState := rfl
@[simp] theorem State.reconfigure_txActive (s : State) : s.reconfigure.txActive = s.txActive := rfl
@[simp] theorem State.reconfigure_txSym (s : State) : s.reconfigure.txSym = s.txSym := rfl
@[simp] theorem State.reconfigure_txByte (s : State) : s.reconfigure.txByte = s.txByte := rfl
@[simp] theorem State.reconfigure_txSr (s : State) : s.reconfigure.txSr = s.txSr := rfl
@[simp] theorem State.reconfigure_txBits (s : State) : s.reconfigure.txBits = s.txBits := rfl
@[simp] theorem State.reconfigure_txPhase (s : State) : s.reconfigure.txPhase = s.txPhase := rfl
@[simp] theorem State.reconfigure_txCnt (s : State) : s.reconfigure.txCnt = s.txCnt := rfl
@[simp] theorem State.reconfigure_rxState (s : State) : s.reconfigure.rxState = s.rxState := rfl
@[simp] theorem State.reconfigure_rxHist (s : State) : s.reconfigure.rxHist = s.rxHist := rfl
@[simp] theorem State.reconfigure_rxBitsum (s : State) : s.reconfigure.rxBitsum = s.rxBitsum := rfl
@[simp] theorem State.reconfigure_rxCnt (s : State) : s.reconfigure.rxCnt = s.rxCnt := rfl
@[simp] theorem State.reconfigure_rxByte (s : State) : s.reconfigure.rxByte = s.rxByte := rfl
@[simp] theorem State.reconfigure_rxBits (s : State) : s.reconfigure.rxBits = s.rxBits := rfl
@[simp] theorem State.reconfigure_iirX0 (s : State) : s.reconfigure.iirX0 = s.iirX0 := rfl
@[simp] theorem State.reconfigure_iirX1 (s : State) : s.reconfigure.iirX1 = s.iirX1 := rfl
@[simp] theorem State.reconfigure_iirY0 (s : State) : s.reconfigure.iirY0 = s.iirY0 := rfl
@[simp] theorem State.reconfigure_iirY1 (s : State) : s.reconfigure.iirY1 = s.iirY1 := rfl
@[simp] theorem State.reconfigure_carrierLocked (s : State) : s.reconfigure.carrierLocked = s.carrierLocked := rfl
@[simp] theorem State.reconfigure_cdStreak (s : State) : s.reconfigure.cdStreak = s.cdStreak := rfl
@[simp] theorem State.reconfigure_waitCnt (s : State) : s.reconfigure.waitCnt = s.waitCnt := rfl
@[simp] theorem State.reconfigure_lossCnt (s : State) : s.reconfigure.lossCnt = s.lossCnt := rfl
@[simp] theorem State.reconfigure_acqFailed (s : State) : s.reconfigure.acqFailed = s.acqFailed := rfl
@[simp] theorem State.reconfigure_txf (s : State) : s.reconfigure.txf = s.txf.clear := rfl
@[simp] theorem State.reconfigure_rxf (s : State) : s.reconfigure.rxf = s.rxf.clear := rfl
@[simp] theorem State.reconfigure_dl (s : State) : s.reconfigure.dl = memFill dlFill 0x80 s.dl s.queuelen := rfl
@[simp] theorem State.reconfigure_txSample (s : State) : s.reconfigure.txSample = s.txSample := rfl
@[simp] theorem State.reconfigure_rsp (s : State) : s.reconfigure.rsp = s.rsp := rfl
@[simp] theorem State.reconfigure_dtmfSend (s : State) : s.reconfigure.dtmfSend = s.dtmfSend := rfl
@[simp] theorem State.reconfigure_dtmfActive (s : State) : s.reconfigure.dtmfActive = s.dtmfActive := rfl
@[simp] theorem State.reconfigure_dtmfSample (s : State) : s.reconfigure.dtmfSample = s.dtmfSample := rfl
@[simp] theorem State.reconfigure_input (s : State) : s.reconfigure.input = s.input := rfl

/-! `State.lockCarrier`. -/

@[simp] theorem State.lockCarrier_build (s : State) : s.lockCarrier.build = s.build := rfl
@[simp] theorem State.lockCarrier_cfgProfile (s : State) : s.lockCarrier.cfgProfile = s.cfgProfile := rfl
@[simp] theorem State.lockCarrier_cfgDir (s : State) : s.lockCarrier.cfgDir = s.cfgDir := rfl
@[simp] theorem State.lockCarrier_cfgCdTenths (s : State) : s.lockCarrier.cfgCdTenths = s.cfgCdTenths := rfl
@[simp] theorem State.lockCarrier_cfgLossTenths (s : State) : s.lockCarrier.cfgLossTenths = s.cfgLossTenths := rfl
@[simp] theorem State.lockCarrier_cfgWaitSeconds (s : State) : s.lockCarrier.cfgWaitSeconds = s.cfgWaitSeconds := rfl
@[simp] theorem State.lockCarrier_cfgOpt (s : State) : s.lockCarrier.cfgOpt = s.cfgOpt := rfl
@[simp] theorem State.lockCarrier_txCarrierOn (s : State) : s.lockCarrier.txCarrierOn = s.txCarrierOn := rfl
@[simp] theorem State.lockCarrier_dialMode (s : State) : s.lockCarrier.dialMode = s.dialMode := rfl
@[simp] theorem State.lockCarrier_txState (s : State) : s.lockCarrier.txState = s.txState := rfl
@[simp] theorem State.lockCarrier_txActive (s : State) : s.lockCarrier.txActive = s.txActive := rfl
@[simp] theorem State.lockCarrier_txSym (s : State) : s.lockCarrier.txSym = s.txSym := rfl
@[simp] theorem State.lockCarrier_txByte (s : State) : s.lockCarrier.txByte = s.txByte := rfl
@[simp] theorem State.lockCarrier_txSr (s : State) : s.lockCarrier.txSr = s.txSr := rfl
@[simp] theorem State.lockCarrier_txBits (s : State) : s.lockCarrier.txBits = s.txBits := rfl
@[simp] theorem State.lockCarrier_txPhase (s : State) : s.lockCarrier.txPhase = s.txPhase := rfl
@[simp] theorem State.lockCarrier_txCnt (s : State) : s.lockCarrier.txCnt = s.txCnt := rfl
@[simp] theorem State.lockCarrier_rxState (s : State) : s.lockCarrier.rxState = .wait := rfl
@[simp] theorem State.lockCarrier_rxHist (s : State) : s.lockCarrier.rxHist = s.rxHist := rfl
@[simp] theorem State.lockCarrier_rxBitsum (s : State) : s.lockCarrier.rxBitsum = s.rxBitsum := rfl
@[simp] theorem State.lockCarrier_rxCnt (s : State) : s.lockCarrier.rxCnt = s.rxCnt := rfl
@[simp] theorem State.lockCarrier_rxByte (s : State) : s.lockCarrier.rxByte = s.rxByte := rfl
@[simp] theorem State.lockCarrier_rxBits (s : State) : s.lockCarrier.rxBits = s.rxBits := rfl
@[simp] theorem State.lockCarrier_iirX0 (s : State) : s.lockCarrier.iirX0 = s.iirX0 := rfl
@[simp] theorem State.lockCarrier_iirX1 (s : State) : s.lockCarrier.iirX1 = s.iirX1 := rfl
@[simp] theorem State.lockCarrier_iirY0 (s : State) : s.lockCarrier.iirY0 = s.iirY0 := rfl
@[simp] theorem State.lockCarrier_iirY1 (s : State) : s.lockCarrier.iirY1 = s.iirY1 := rfl
@[simp] theorem State.lockCarrier_carrierLocked (s : State) : s.lockCarrier.carrierLocked = true := rfl
@[simp] theorem State.lockCarrier_cdStreak (s : State) : s.lockCarrier.cdStreak = s.cdStreak := rfl
@[simp] theorem State.lockCarrier_waitCnt (s : State) : s.lockCarrier.waitCnt = s.waitCnt := rfl
@[simp] theorem State.lockCarrier_lossCnt (s : State) : s.lockCarrier.lossCnt = BitVec.ofNat 24 s.lossSamples := rfl
@[simp] theorem State.lockCarrier_acqFailed (s : State) : s.lockCarrier.acqFailed = s.acqFailed := rfl
@[simp] theorem State.lockCarrier_txf (s : State) : s.lockCarrier.txf = s.txf := rfl
@[simp] theorem State.lockCarrier_rxf (s : State) : s.lockCarrier.rxf = s.rxf := rfl
@[simp] theorem State.lockCarrier_dl (s : State) : s.lockCarrier.dl = s.dl := rfl
@[simp] theorem State.lockCarrier_txSample (s : State) : s.lockCarrier.txSample = s.txSample := rfl
@[simp] theorem State.lockCarrier_rsp (s : State) : s.lockCarrier.rsp = s.rsp := rfl
@[simp] theorem State.lockCarrier_dtmfSend (s : State) : s.lockCarrier.dtmfSend = s.dtmfSend := rfl
@[simp] theorem State.lockCarrier_dtmfActive (s : State) : s.lockCarrier.dtmfActive = s.dtmfActive := rfl
@[simp] theorem State.lockCarrier_dtmfSample (s : State) : s.lockCarrier.dtmfSample = s.dtmfSample := rfl
@[simp] theorem State.lockCarrier_input (s : State) : s.lockCarrier.input = s.input := rfl

/-! `State.takeTxByte`. -/

@[simp] theorem State.takeTxByte_build (s : State) : s.takeTxByte.build = s.build := rfl
@[simp] theorem State.takeTxByte_cfgProfile (s : State) : s.takeTxByte.cfgProfile = s.cfgProfile := rfl
@[simp] theorem State.takeTxByte_cfgDir (s : State) : s.takeTxByte.cfgDir = s.cfgDir := rfl
@[simp] theorem State.takeTxByte_cfgCdTenths (s : State) : s.takeTxByte.cfgCdTenths = s.cfgCdTenths := rfl
@[simp] theorem State.takeTxByte_cfgLossTenths (s : State) : s.takeTxByte.cfgLossTenths = s.cfgLossTenths := rfl
@[simp] theorem State.takeTxByte_cfgWaitSeconds (s : State) : s.takeTxByte.cfgWaitSeconds = s.cfgWaitSeconds := rfl
@[simp] theorem State.takeTxByte_cfgOpt (s : State) : s.takeTxByte.cfgOpt = s.cfgOpt := rfl
@[simp] theorem State.takeTxByte_txCarrierOn (s : State) : s.takeTxByte.txCarrierOn = s.txCarrierOn := rfl
@[simp] theorem State.takeTxByte_dialMode (s : State) : s.takeTxByte.dialMode = s.dialMode := rfl
@[simp] theorem State.takeTxByte_txState (s : State) : s.takeTxByte.txState = s.txState := rfl
@[simp] theorem State.takeTxByte_txActive (s : State) : s.takeTxByte.txActive = s.txActive := rfl
@[simp] theorem State.takeTxByte_txSym (s : State) : s.takeTxByte.txSym = s.txSym := rfl
@[simp] theorem State.takeTxByte_txByte (s : State) : s.takeTxByte.txByte = s.txf.peek s.build.txFifoBits := rfl
@[simp] theorem State.takeTxByte_txSr (s : State) : s.takeTxByte.txSr = s.txSr := rfl
@[simp] theorem State.takeTxByte_txBits (s : State) : s.takeTxByte.txBits = s.txBits := rfl
@[simp] theorem State.takeTxByte_txPhase (s : State) : s.takeTxByte.txPhase = s.txPhase := rfl
@[simp] theorem State.takeTxByte_txCnt (s : State) : s.takeTxByte.txCnt = s.txCnt := rfl
@[simp] theorem State.takeTxByte_rxState (s : State) : s.takeTxByte.rxState = s.rxState := rfl
@[simp] theorem State.takeTxByte_rxHist (s : State) : s.takeTxByte.rxHist = s.rxHist := rfl
@[simp] theorem State.takeTxByte_rxBitsum (s : State) : s.takeTxByte.rxBitsum = s.rxBitsum := rfl
@[simp] theorem State.takeTxByte_rxCnt (s : State) : s.takeTxByte.rxCnt = s.rxCnt := rfl
@[simp] theorem State.takeTxByte_rxByte (s : State) : s.takeTxByte.rxByte = s.rxByte := rfl
@[simp] theorem State.takeTxByte_rxBits (s : State) : s.takeTxByte.rxBits = s.rxBits := rfl
@[simp] theorem State.takeTxByte_iirX0 (s : State) : s.takeTxByte.iirX0 = s.iirX0 := rfl
@[simp] theorem State.takeTxByte_iirX1 (s : State) : s.takeTxByte.iirX1 = s.iirX1 := rfl
@[simp] theorem State.takeTxByte_iirY0 (s : State) : s.takeTxByte.iirY0 = s.iirY0 := rfl
@[simp] theorem State.takeTxByte_iirY1 (s : State) : s.takeTxByte.iirY1 = s.iirY1 := rfl
@[simp] theorem State.takeTxByte_carrierLocked (s : State) : s.takeTxByte.carrierLocked = s.carrierLocked := rfl
@[simp] theorem State.takeTxByte_cdStreak (s : State) : s.takeTxByte.cdStreak = s.cdStreak := rfl
@[simp] theorem State.takeTxByte_waitCnt (s : State) : s.takeTxByte.waitCnt = s.waitCnt := rfl
@[simp] theorem State.takeTxByte_lossCnt (s : State) : s.takeTxByte.lossCnt = s.lossCnt := rfl
@[simp] theorem State.takeTxByte_acqFailed (s : State) : s.takeTxByte.acqFailed = s.acqFailed := rfl
@[simp] theorem State.takeTxByte_txf (s : State) : s.takeTxByte.txf = s.txf.pop s.build.txFifoBits := rfl
@[simp] theorem State.takeTxByte_rxf (s : State) : s.takeTxByte.rxf = s.rxf := rfl
@[simp] theorem State.takeTxByte_dl (s : State) : s.takeTxByte.dl = s.dl := rfl
@[simp] theorem State.takeTxByte_txSample (s : State) : s.takeTxByte.txSample = s.txSample := rfl
@[simp] theorem State.takeTxByte_rsp (s : State) : s.takeTxByte.rsp = s.rsp := rfl
@[simp] theorem State.takeTxByte_dtmfSend (s : State) : s.takeTxByte.dtmfSend = s.dtmfSend := rfl
@[simp] theorem State.takeTxByte_dtmfActive (s : State) : s.takeTxByte.dtmfActive = s.dtmfActive := rfl
@[simp] theorem State.takeTxByte_dtmfSample (s : State) : s.takeTxByte.dtmfSample = s.dtmfSample := rfl
@[simp] theorem State.takeTxByte_input (s : State) : s.takeTxByte.input = s.input := rfl

/-! `State.startNextByte`. -/

@[simp] theorem State.startNextByte_build (s : State) : s.startNextByte.build = s.build := rfl
@[simp] theorem State.startNextByte_cfgProfile (s : State) : s.startNextByte.cfgProfile = s.cfgProfile := rfl
@[simp] theorem State.startNextByte_cfgDir (s : State) : s.startNextByte.cfgDir = s.cfgDir := rfl
@[simp] theorem State.startNextByte_cfgCdTenths (s : State) : s.startNextByte.cfgCdTenths = s.cfgCdTenths := rfl
@[simp] theorem State.startNextByte_cfgLossTenths (s : State) : s.startNextByte.cfgLossTenths = s.cfgLossTenths := rfl
@[simp] theorem State.startNextByte_cfgWaitSeconds (s : State) : s.startNextByte.cfgWaitSeconds = s.cfgWaitSeconds := rfl
@[simp] theorem State.startNextByte_cfgOpt (s : State) : s.startNextByte.cfgOpt = s.cfgOpt := rfl
@[simp] theorem State.startNextByte_txCarrierOn (s : State) : s.startNextByte.txCarrierOn = s.txCarrierOn := rfl
@[simp] theorem State.startNextByte_dialMode (s : State) : s.startNextByte.dialMode = s.dialMode := rfl
@[simp] theorem State.startNextByte_txState (s : State) : s.startNextByte.txState = .startBit := rfl
@[simp] theorem State.startNextByte_txActive (s : State) : s.startNextByte.txActive = s.txActive := rfl
@[simp] theorem State.startNextByte_txSym (s : State) : s.startNextByte.txSym = false := rfl
@[simp] theorem State.startNextByte_txByte (s : State) : s.startNextByte.txByte = s.txf.peek s.build.txFifoBits := rfl
@[simp] theorem State.startNextByte_txSr (s : State) : s.startNextByte.txSr = s.txSr := rfl
@[simp] theorem State.startNextByte_txBits (s : State) : s.startNextByte.txBits = s.txBits := rfl
@[simp] theorem State.startNextByte_txPhase (s : State) : s.startNextByte.txPhase = s.txPhase := rfl
@[simp] theorem State.startNextByte_txCnt (s : State) : s.startNextByte.txCnt = s.txCnt := rfl
@[simp] theorem State.startNextByte_rxState (s : State) : s.startNextByte.rxState = s.rxState := rfl
@[simp] theorem State.startNextByte_rxHist (s : State) : s.startNextByte.rxHist = s.rxHist := rfl
@[simp] theorem State.startNextByte_rxBitsum (s : State) : s.startNextByte.rxBitsum = s.rxBitsum := rfl
@[simp] theorem State.startNextByte_rxCnt (s : State) : s.startNextByte.rxCnt = s.rxCnt := rfl
@[simp] theorem State.startNextByte_rxByte (s : State) : s.startNextByte.rxByte = s.rxByte := rfl
@[simp] theorem State.startNextByte_rxBits (s : State) : s.startNextByte.rxBits = s.rxBits := rfl
@[simp] theorem State.startNextByte_iirX0 (s : State) : s.startNextByte.iirX0 = s.iirX0 := rfl
@[simp] theorem State.startNextByte_iirX1 (s : State) : s.startNextByte.iirX1 = s.iirX1 := rfl
@[simp] theorem State.startNextByte_iirY0 (s : State) : s.startNextByte.iirY0 = s.iirY0 := rfl
@[simp] theorem State.startNextByte_iirY1 (s : State) : s.startNextByte.iirY1 = s.iirY1 := rfl
@[simp] theorem State.startNextByte_carrierLocked (s : State) : s.startNextByte.carrierLocked = s.carrierLocked := rfl
@[simp] theorem State.startNextByte_cdStreak (s : State) : s.startNextByte.cdStreak = s.cdStreak := rfl
@[simp] theorem State.startNextByte_waitCnt (s : State) : s.startNextByte.waitCnt = s.waitCnt := rfl
@[simp] theorem State.startNextByte_lossCnt (s : State) : s.startNextByte.lossCnt = s.lossCnt := rfl
@[simp] theorem State.startNextByte_acqFailed (s : State) : s.startNextByte.acqFailed = s.acqFailed := rfl
@[simp] theorem State.startNextByte_txf (s : State) : s.startNextByte.txf = s.txf.pop s.build.txFifoBits := rfl
@[simp] theorem State.startNextByte_rxf (s : State) : s.startNextByte.rxf = s.rxf := rfl
@[simp] theorem State.startNextByte_dl (s : State) : s.startNextByte.dl = s.dl := rfl
@[simp] theorem State.startNextByte_txSample (s : State) : s.startNextByte.txSample = s.txSample := rfl
@[simp] theorem State.startNextByte_rsp (s : State) : s.startNextByte.rsp = s.rsp := rfl
@[simp] theorem State.startNextByte_dtmfSend (s : State) : s.startNextByte.dtmfSend = s.dtmfSend := rfl
@[simp] theorem State.startNextByte_dtmfActive (s : State) : s.startNextByte.dtmfActive = s.dtmfActive := rfl
@[simp] theorem State.startNextByte_dtmfSample (s : State) : s.startNextByte.dtmfSample = s.dtmfSample := rfl
@[simp] theorem State.startNextByte_input (s : State) : s.startNextByte.input = s.input := rfl

/-! `State.loseCarrier`. -/

@[simp] theorem State.loseCarrier_build (s : State) : s.loseCarrier.build = s.build := rfl
@[simp] theorem State.loseCarrier_cfgProfile (s : State) : s.loseCarrier.cfgProfile = s.cfgProfile := rfl
@[simp] theorem State.loseCarrier_cfgDir (s : State) : s.loseCarrier.cfgDir = s.cfgDir := rfl
@[simp] theorem State.loseCarrier_cfgCdTenths (s : State) : s.loseCarrier.cfgCdTenths = s.cfgCdTenths := rfl
@[simp] theorem State.loseCarrier_cfgLossTenths (s : State) : s.loseCarrier.cfgLossTenths = s.cfgLossTenths := rfl
@[simp] theorem State.loseCarrier_cfgWaitSeconds (s : State) : s.loseCarrier.cfgWaitSeconds = s.cfgWaitSeconds := rfl
@[simp] theorem State.loseCarrier_cfgOpt (s : State) : s.loseCarrier.cfgOpt = s.cfgOpt := rfl
@[simp] theorem State.loseCarrier_txCarrierOn (s : State) : s.loseCarrier.txCarrierOn = s.txCarrierOn := rfl
@[simp] theorem State.loseCarrier_dialMode (s : State) : s.loseCarrier.dialMode = s.dialMode := rfl
@[simp] theorem State.loseCarrier_txState (s : State) : s.loseCarrier.txState = s.txState := rfl
@[simp] theorem State.loseCarrier_txActive (s : State) : s.loseCarrier.txActive = s.txActive := rfl
@[simp] theorem State.loseCarrier_txSym (s : State) : s.loseCarrier.txSym = s.txSym := rfl
@[simp] theorem State.loseCarrier_txByte (s : State) : s.loseCarrier.txByte = s.txByte := rfl
@[simp] theorem State.loseCarrier_txSr (s : State) : s.loseCarrier.txSr = s.txSr := rfl
@[simp] theorem State.loseCarrier_txBits (s : State) : s.loseCarrier.txBits = s.txBits := rfl
@[simp] theorem State.loseCarrier_txPhase (s : State) : s.loseCarrier.txPhase = s.txPhase := rfl
@[simp] theorem State.loseCarrier_txCnt (s : State) : s.loseCarrier.txCnt = s.txCnt := rfl
@[simp] theorem State.loseCarrier_rxState (s : State) : s.loseCarrier.rxState = .noCarrier := rfl
@[simp] theorem State.loseCarrier_rxHist (s : State) : s.loseCarrier.rxHist = s.rxHist := rfl
@[simp] theorem State.loseCarrier_rxBitsum (s : State) : s.loseCarrier.rxBitsum = s.rxBitsum := rfl
@[simp] theorem State.loseCarrier_rxCnt (s : State) : s.loseCarrier.rxCnt = s.rxCnt := rfl
@[simp] theorem State.loseCarrier_rxByte (s : State) : s.loseCarrier.rxByte = s.rxByte := rfl
@[simp] theorem State.loseCarrier_rxBits (s : State) : s.loseCarrier.rxBits = s.rxBits := rfl
@[simp] theorem State.loseCarrier_iirX0 (s : State) : s.loseCarrier.iirX0 = s.iirX0 := rfl
@[simp] theorem State.loseCarrier_iirX1 (s : State) : s.loseCarrier.iirX1 = s.iirX1 := rfl
@[simp] theorem State.loseCarrier_iirY0 (s : State) : s.loseCarrier.iirY0 = s.iirY0 := rfl
@[simp] theorem State.loseCarrier_iirY1 (s : State) : s.loseCarrier.iirY1 = s.iirY1 := rfl
@[simp] theorem State.loseCarrier_carrierLocked (s : State) : s.loseCarrier.carrierLocked = false := rfl
@[simp] theorem State.loseCarrier_cdStreak (s : State) : s.loseCarrier.cdStreak = s.cdStreak := rfl
@[simp] theorem State.loseCarrier_waitCnt (s : State) : s.loseCarrier.waitCnt = s.waitCnt := rfl
@[simp] theorem State.loseCarrier_lossCnt (s : State) : s.loseCarrier.lossCnt = 0 := rfl
@[simp] theorem State.loseCarrier_acqFailed (s : State) : s.loseCarrier.acqFailed = s.acqFailed := rfl
@[simp] theorem State.loseCarrier_txf (s : State) : s.loseCarrier.txf = s.txf := rfl
@[simp] theorem State.loseCarrier_rxf (s : State) : s.loseCarrier.rxf = s.rxf := rfl
@[simp] theorem State.loseCarrier_dl (s : State) : s.loseCarrier.dl = s.dl := rfl
@[simp] theorem State.loseCarrier_txSample (s : State) : s.loseCarrier.txSample = s.txSample := rfl
@[simp] theorem State.loseCarrier_rsp (s : State) : s.loseCarrier.rsp = s.rsp := rfl
@[simp] theorem State.loseCarrier_dtmfSend (s : State) : s.loseCarrier.dtmfSend = s.dtmfSend := rfl
@[simp] theorem State.loseCarrier_dtmfActive (s : State) : s.loseCarrier.dtmfActive = s.dtmfActive := rfl
@[simp] theorem State.loseCarrier_dtmfSample (s : State) : s.loseCarrier.dtmfSample = s.dtmfSample := rfl
@[simp] theorem State.loseCarrier_input (s : State) : s.loseCarrier.input = s.input := rfl

/-! `pushHistory`. -/

@[simp] theorem pushHistory_build (b : Bool) (s : State) : (pushHistory b s).build = s.build := rfl
@[simp] theorem pushHistory_cfgProfile (b : Bool) (s : State) : (pushHistory b s).cfgProfile = s.cfgProfile := rfl
@[simp] theorem pushHistory_cfgDir (b : Bool) (s : State) : (pushHistory b s).cfgDir = s.cfgDir := rfl
@[simp] theorem pushHistory_cfgCdTenths (b : Bool) (s : State) : (pushHistory b s).cfgCdTenths = s.cfgCdTenths := rfl
@[simp] theorem pushHistory_cfgLossTenths (b : Bool) (s : State) : (pushHistory b s).cfgLossTenths = s.cfgLossTenths := rfl
@[simp] theorem pushHistory_cfgWaitSeconds (b : Bool) (s : State) : (pushHistory b s).cfgWaitSeconds = s.cfgWaitSeconds := rfl
@[simp] theorem pushHistory_cfgOpt (b : Bool) (s : State) : (pushHistory b s).cfgOpt = s.cfgOpt := rfl
@[simp] theorem pushHistory_txCarrierOn (b : Bool) (s : State) : (pushHistory b s).txCarrierOn = s.txCarrierOn := rfl
@[simp] theorem pushHistory_dialMode (b : Bool) (s : State) : (pushHistory b s).dialMode = s.dialMode := rfl
@[simp] theorem pushHistory_txState (b : Bool) (s : State) : (pushHistory b s).txState = s.txState := rfl
@[simp] theorem pushHistory_txActive (b : Bool) (s : State) : (pushHistory b s).txActive = s.txActive := rfl
@[simp] theorem pushHistory_txSym (b : Bool) (s : State) : (pushHistory b s).txSym = s.txSym := rfl
@[simp] theorem pushHistory_txByte (b : Bool) (s : State) : (pushHistory b s).txByte = s.txByte := rfl
@[simp] theorem pushHistory_txSr (b : Bool) (s : State) : (pushHistory b s).txSr = s.txSr := rfl
@[simp] theorem pushHistory_txBits (b : Bool) (s : State) : (pushHistory b s).txBits = s.txBits := rfl
@[simp] theorem pushHistory_txPhase (b : Bool) (s : State) : (pushHistory b s).txPhase = s.txPhase := rfl
@[simp] theorem pushHistory_txCnt (b : Bool) (s : State) : (pushHistory b s).txCnt = s.txCnt := rfl
@[simp] theorem pushHistory_rxState (b : Bool) (s : State) : (pushHistory b s).rxState = s.rxState := rfl
@[simp] theorem pushHistory_rxHist (b : Bool) (s : State) : (pushHistory b s).rxHist = (s.rxHist <<< 1) ||| BitVec.ofNat 8 (bitVal b) := rfl
@[simp] theorem pushHistory_rxBitsum (b : Bool) (s : State) : (pushHistory b s).rxBitsum = s.rxBitsum := rfl
@[simp] theorem pushHistory_rxCnt (b : Bool) (s : State) : (pushHistory b s).rxCnt = s.rxCnt := rfl
@[simp] theorem pushHistory_rxByte (b : Bool) (s : State) : (pushHistory b s).rxByte = s.rxByte := rfl
@[simp] theorem pushHistory_rxBits (b : Bool) (s : State) : (pushHistory b s).rxBits = s.rxBits := rfl
@[simp] theorem pushHistory_iirX0 (b : Bool) (s : State) : (pushHistory b s).iirX0 = s.iirX0 := rfl
@[simp] theorem pushHistory_iirX1 (b : Bool) (s : State) : (pushHistory b s).iirX1 = s.iirX1 := rfl
@[simp] theorem pushHistory_iirY0 (b : Bool) (s : State) : (pushHistory b s).iirY0 = s.iirY0 := rfl
@[simp] theorem pushHistory_iirY1 (b : Bool) (s : State) : (pushHistory b s).iirY1 = s.iirY1 := rfl
@[simp] theorem pushHistory_carrierLocked (b : Bool) (s : State) : (pushHistory b s).carrierLocked = s.carrierLocked := rfl
@[simp] theorem pushHistory_cdStreak (b : Bool) (s : State) : (pushHistory b s).cdStreak = s.cdStreak := rfl
@[simp] theorem pushHistory_waitCnt (b : Bool) (s : State) : (pushHistory b s).waitCnt = s.waitCnt := rfl
@[simp] theorem pushHistory_lossCnt (b : Bool) (s : State) : (pushHistory b s).lossCnt = s.lossCnt := rfl
@[simp] theorem pushHistory_acqFailed (b : Bool) (s : State) : (pushHistory b s).acqFailed = s.acqFailed := rfl
@[simp] theorem pushHistory_txf (b : Bool) (s : State) : (pushHistory b s).txf = s.txf := rfl
@[simp] theorem pushHistory_rxf (b : Bool) (s : State) : (pushHistory b s).rxf = s.rxf := rfl
@[simp] theorem pushHistory_dl (b : Bool) (s : State) : (pushHistory b s).dl = s.dl := rfl
@[simp] theorem pushHistory_txSample (b : Bool) (s : State) : (pushHistory b s).txSample = s.txSample := rfl
@[simp] theorem pushHistory_rsp (b : Bool) (s : State) : (pushHistory b s).rsp = s.rsp := rfl
@[simp] theorem pushHistory_dtmfSend (b : Bool) (s : State) : (pushHistory b s).dtmfSend = s.dtmfSend := rfl
@[simp] theorem pushHistory_dtmfActive (b : Bool) (s : State) : (pushHistory b s).dtmfActive = s.dtmfActive := rfl
@[simp] theorem pushHistory_dtmfSample (b : Bool) (s : State) : (pushHistory b s).dtmfSample = s.dtmfSample := rfl
@[simp] theorem pushHistory_input (b : Bool) (s : State) : (pushHistory b s).input = s.input := rfl

/-! `countDecision`. -/

@[simp] theorem countDecision_build (b : Bool) (s : State) : (countDecision b s).build = s.build := rfl
@[simp] theorem countDecision_cfgProfile (b : Bool) (s : State) : (countDecision b s).cfgProfile = s.cfgProfile := rfl
@[simp] theorem countDecision_cfgDir (b : Bool) (s : State) : (countDecision b s).cfgDir = s.cfgDir := rfl
@[simp] theorem countDecision_cfgCdTenths (b : Bool) (s : State) : (countDecision b s).cfgCdTenths = s.cfgCdTenths := rfl
@[simp] theorem countDecision_cfgLossTenths (b : Bool) (s : State) : (countDecision b s).cfgLossTenths = s.cfgLossTenths := rfl
@[simp] theorem countDecision_cfgWaitSeconds (b : Bool) (s : State) : (countDecision b s).cfgWaitSeconds = s.cfgWaitSeconds := rfl
@[simp] theorem countDecision_cfgOpt (b : Bool) (s : State) : (countDecision b s).cfgOpt = s.cfgOpt := rfl
@[simp] theorem countDecision_txCarrierOn (b : Bool) (s : State) : (countDecision b s).txCarrierOn = s.txCarrierOn := rfl
@[simp] theorem countDecision_dialMode (b : Bool) (s : State) : (countDecision b s).dialMode = s.dialMode := rfl
@[simp] theorem countDecision_txState (b : Bool) (s : State) : (countDecision b s).txState = s.txState := rfl
@[simp] theorem countDecision_txActive (b : Bool) (s : State) : (countDecision b s).txActive = s.txActive := rfl
@[simp] theorem countDecision_txSym (b : Bool) (s : State) : (countDecision b s).txSym = s.txSym := rfl
@[simp] theorem countDecision_txByte (b : Bool) (s : State) : (countDecision b s).txByte = s.txByte := rfl
@[simp] theorem countDecision_txSr (b : Bool) (s : State) : (countDecision b s).txSr = s.txSr := rfl
@[simp] theorem countDecision_txBits (b : Bool) (s : State) : (countDecision b s).txBits = s.txBits := rfl
@[simp] theorem countDecision_txPhase (b : Bool) (s : State) : (countDecision b s).txPhase = s.txPhase := rfl
@[simp] theorem countDecision_txCnt (b : Bool) (s : State) : (countDecision b s).txCnt = s.txCnt := rfl
@[simp] theorem countDecision_rxState (b : Bool) (s : State) : (countDecision b s).rxState = s.rxState := rfl
@[simp] theorem countDecision_rxHist (b : Bool) (s : State) : (countDecision b s).rxHist = s.rxHist := rfl
@[simp] theorem countDecision_rxBitsum (b : Bool) (s : State) : (countDecision b s).rxBitsum = wrap8 (s.rxBitsum.toNat + bitVal b) := rfl
@[simp] theorem countDecision_rxCnt (b : Bool) (s : State) : (countDecision b s).rxCnt = wrap8 (s.rxCnt.toNat + 1) := rfl
@[simp] theorem countDecision_rxByte (b : Bool) (s : State) : (countDecision b s).rxByte = s.rxByte := rfl
@[simp] theorem countDecision_rxBits (b : Bool) (s : State) : (countDecision b s).rxBits = s.rxBits := rfl
@[simp] theorem countDecision_iirX0 (b : Bool) (s : State) : (countDecision b s).iirX0 = s.iirX0 := rfl
@[simp] theorem countDecision_iirX1 (b : Bool) (s : State) : (countDecision b s).iirX1 = s.iirX1 := rfl
@[simp] theorem countDecision_iirY0 (b : Bool) (s : State) : (countDecision b s).iirY0 = s.iirY0 := rfl
@[simp] theorem countDecision_iirY1 (b : Bool) (s : State) : (countDecision b s).iirY1 = s.iirY1 := rfl
@[simp] theorem countDecision_carrierLocked (b : Bool) (s : State) : (countDecision b s).carrierLocked = s.carrierLocked := rfl
@[simp] theorem countDecision_cdStreak (b : Bool) (s : State) : (countDecision b s).cdStreak = s.cdStreak := rfl
@[simp] theorem countDecision_waitCnt (b : Bool) (s : State) : (countDecision b s).waitCnt = s.waitCnt := rfl
@[simp] theorem countDecision_lossCnt (b : Bool) (s : State) : (countDecision b s).lossCnt = s.lossCnt := rfl
@[simp] theorem countDecision_acqFailed (b : Bool) (s : State) : (countDecision b s).acqFailed = s.acqFailed := rfl
@[simp] theorem countDecision_txf (b : Bool) (s : State) : (countDecision b s).txf = s.txf := rfl
@[simp] theorem countDecision_rxf (b : Bool) (s : State) : (countDecision b s).rxf = s.rxf := rfl
@[simp] theorem countDecision_dl (b : Bool) (s : State) : (countDecision b s).dl = s.dl := rfl
@[simp] theorem countDecision_txSample (b : Bool) (s : State) : (countDecision b s).txSample = s.txSample := rfl
@[simp] theorem countDecision_rsp (b : Bool) (s : State) : (countDecision b s).rsp = s.rsp := rfl
@[simp] theorem countDecision_dtmfSend (b : Bool) (s : State) : (countDecision b s).dtmfSend = s.dtmfSend := rfl
@[simp] theorem countDecision_dtmfActive (b : Bool) (s : State) : (countDecision b s).dtmfActive = s.dtmfActive := rfl
@[simp] theorem countDecision_dtmfSample (b : Bool) (s : State) : (countDecision b s).dtmfSample = s.dtmfSample := rfl
@[simp] theorem countDecision_input (b : Bool) (s : State) : (countDecision b s).input = s.input := rfl

/-! `signalChain`. -/

@[simp] theorem signalChain_build (raw : Byte) (s : State) : (signalChain raw s).build = s.build := rfl
@[simp] theorem signalChain_cfgProfile (raw : Byte) (s : State) : (signalChain raw s).cfgProfile = s.cfgProfile := rfl
@[simp] theorem signalChain_cfgDir (raw : Byte) (s : State) : (signalChain raw s).cfgDir = s.cfgDir := rfl
@[simp] theorem signalChain_cfgCdTenths (raw : Byte) (s : State) : (signalChain raw s).cfgCdTenths = s.cfgCdTenths := rfl
@[simp] theorem signalChain_cfgLossTenths (raw : Byte) (s : State) : (signalChain raw s).cfgLossTenths = s.cfgLossTenths := rfl
@[simp] theorem signalChain_cfgWaitSeconds (raw : Byte) (s : State) : (signalChain raw s).cfgWaitSeconds = s.cfgWaitSeconds := rfl
@[simp] theorem signalChain_cfgOpt (raw : Byte) (s : State) : (signalChain raw s).cfgOpt = s.cfgOpt := rfl
@[simp] theorem signalChain_txCarrierOn (raw : Byte) (s : State) : (signalChain raw s).txCarrierOn = s.txCarrierOn := rfl
@[simp] theorem signalChain_dialMode (raw : Byte) (s : State) : (signalChain raw s).dialMode = s.dialMode := rfl
@[simp] theorem signalChain_txState (raw : Byte) (s : State) : (signalChain raw s).txState = s.txState := rfl
@[simp] theorem signalChain_txActive (raw : Byte) (s : State) : (signalChain raw s).txActive = s.txActive := rfl
@[simp] theorem signalChain_txSym (raw : Byte) (s : State) : (signalChain raw s).txSym = s.txSym := rfl
@[simp] theorem signalChain_txByte (raw : Byte) (s : State) : (signalChain raw s).txByte = s.txByte := rfl
@[simp] theorem signalChain_txSr (raw : Byte) (s : State) : (signalChain raw s).txSr = s.txSr := rfl
@[simp] theorem signalChain_txBits (raw : Byte) (s : State) : (signalChain raw s).txBits = s.txBits := rfl
@[simp] theorem signalChain_txPhase (raw : Byte) (s : State) : (signalChain raw s).txPhase = s.txPhase := rfl
@[simp] theorem signalChain_txCnt (raw : Byte) (s : State) : (signalChain raw s).txCnt = s.txCnt := rfl
@[simp] theorem signalChain_rxState (raw : Byte) (s : State) : (signalChain raw s).rxState = s.rxState := rfl
@[simp] theorem signalChain_rxHist (raw : Byte) (s : State) : (signalChain raw s).rxHist = s.rxHist := rfl
@[simp] theorem signalChain_rxBitsum (raw : Byte) (s : State) : (signalChain raw s).rxBitsum = s.rxBitsum := rfl
@[simp] theorem signalChain_rxCnt (raw : Byte) (s : State) : (signalChain raw s).rxCnt = s.rxCnt := rfl
@[simp] theorem signalChain_rxByte (raw : Byte) (s : State) : (signalChain raw s).rxByte = s.rxByte := rfl
@[simp] theorem signalChain_rxBits (raw : Byte) (s : State) : (signalChain raw s).rxBits = s.rxBits := rfl
@[simp] theorem signalChain_carrierLocked (raw : Byte) (s : State) : (signalChain raw s).carrierLocked = s.carrierLocked := rfl
@[simp] theorem signalChain_cdStreak (raw : Byte) (s : State) : (signalChain raw s).cdStreak = s.cdStreak := rfl
@[simp] theorem signalChain_waitCnt (raw : Byte) (s : State) : (signalChain raw s).waitCnt = s.waitCnt := rfl
@[simp] theorem signalChain_lossCnt (raw : Byte) (s : State) : (signalChain raw s).lossCnt = s.lossCnt := rfl
@[simp] theorem signalChain_acqFailed (raw : Byte) (s : State) : (signalChain raw s).acqFailed = s.acqFailed := rfl
@[simp] theorem signalChain_txf (raw : Byte) (s : State) : (signalChain raw s).txf = s.txf := rfl
@[simp] theorem signalChain_rxf (raw : Byte) (s : State) : (signalChain raw s).rxf = s.rxf := rfl
@[simp] theorem signalChain_txSample (raw : Byte) (s : State) : (signalChain raw s).txSample = s.txSample := rfl
@[simp] theorem signalChain_rsp (raw : Byte) (s : State) : (signalChain raw s).rsp = s.rsp := rfl
@[simp] theorem signalChain_dtmfSend (raw : Byte) (s : State) : (signalChain raw s).dtmfSend = s.dtmfSend := rfl
@[simp] theorem signalChain_dtmfActive (raw : Byte) (s : State) : (signalChain raw s).dtmfActive = s.dtmfActive := rfl
@[simp] theorem signalChain_dtmfSample (raw : Byte) (s : State) : (signalChain raw s).dtmfSample = s.dtmfSample := rfl
@[simp] theorem signalChain_input (raw : Byte) (s : State) : (signalChain raw s).input = s.input := rfl

end Sys2Proof.Machine
end

