-- ==== Sys2Proof/Laws/Frames.lean ====
section
/-! SUPPORT. What each part of a TICK can change, said once: a part is the state it finds with the fields of its views
replaced. Proofs cite these equations instead of unfolding a part. -/

namespace Sys2Proof.Machine

/-- A state with the TX engine and its FIFO replaced. -/
def State.withTx (s : State) (v : TxView) : State :=
  { s with txState := v.txState, txActive := v.txActive, txSym := v.txSym, txByte := v.txByte, txSr := v.txSr,
           txBits := v.txBits, txPhase := v.txPhase, txCnt := v.txCnt, txf := v.txf }

/-- A state with the RX signal chain replaced. -/
def State.withChain (s : State) (v : ChainView) : State :=
  { s with rxHist := v.rxHist, iirX0 := v.iirX0, iirX1 := v.iirX1, iirY0 := v.iirY0, iirY1 := v.iirY1, dl := v.dl }

/-- A state with the RX framer, its FIFO and the carrier detector replaced. -/
def State.withFramer (s : State) (v : FramerView) : State :=
  { s with rxState := v.rxState, rxBitsum := v.rxBitsum, rxCnt := v.rxCnt, rxByte := v.rxByte, rxBits := v.rxBits,
           carrierLocked := v.carrierLocked, cdStreak := v.cdStreak, waitCnt := v.waitCnt, lossCnt := v.lossCnt,
           acqFailed := v.acqFailed, rxf := v.rxf }

@[simp] theorem State.withTx_txView (s : State) (v : TxView) : (s.withTx v).txView = v := rfl
@[simp] theorem State.withTx_chainView (s : State) (v : TxView) : (s.withTx v).chainView = s.chainView := rfl
@[simp] theorem State.withTx_framerView (s : State) (v : TxView) : (s.withTx v).framerView = s.framerView := rfl
@[simp] theorem State.withTx_controlView (s : State) (v : TxView) : (s.withTx v).controlView = s.controlView := rfl
@[simp] theorem State.withChain_txView (s : State) (v : ChainView) : (s.withChain v).txView = s.txView := rfl
@[simp] theorem State.withChain_chainView (s : State) (v : ChainView) : (s.withChain v).chainView = v := rfl
@[simp] theorem State.withChain_framerView (s : State) (v : ChainView) : (s.withChain v).framerView = s.framerView := rfl
@[simp] theorem State.withFramer_txView (s : State) (v : FramerView) : (s.withFramer v).txView = s.txView := rfl
@[simp] theorem State.withFramer_chainView (s : State) (v : FramerView) :
    (s.withFramer v).chainView = s.chainView := rfl
@[simp] theorem State.withFramer_framerView (s : State) (v : FramerView) : (s.withFramer v).framerView = v := rfl

/-! The transmit part. -/

theorem txWait_frame (s : State) : txWait s = s.withTx (txWait s).txView := by unfold txWait; split <;> rfl
theorem txPreamble_frame (s : State) : txPreamble s = s.withTx (txPreamble s).txView := by
  unfold txPreamble; dsimp only; split <;> rfl
theorem txStartBit_frame (s : State) : txStartBit s = s.withTx (txStartBit s).txView := rfl
theorem txDataBit_frame (s : State) : txDataBit s = s.withTx (txDataBit s).txView := by unfold txDataBit; split <;> rfl
theorem txStopBit_frame (s : State) : txStopBit s = s.withTx (txStopBit s).txView := by unfold txStopBit; split <;> rfl
theorem txTrail_frame (s : State) : txTrail s = s.withTx (txTrail s).txView := by
  unfold txTrail; split
  · split <;> rfl
  · rfl

/-- The TX framer writes the TX engine and its FIFO alone (rule R175). -/
theorem txFrame_frame (s : State) : txFrame s = s.withTx (txFrame s).txView := by
  unfold txFrame
  split
  · exact txPreamble_frame s
  · exact txStartBit_frame s
  · exact txDataBit_frame s
  · exact txStopBit_frame s
  · exact txTrail_frame s
  all_goals exact txWait_frame s

theorem advancePhase_frame (s : State) : advancePhase s = s.withTx (advancePhase s).txView := rfl

theorem symbolClock_frame (s : State) : symbolClock s = s.withTx (symbolClock s).txView := by
  unfold symbolClock; dsimp only; split
  · conv => lhs; rw [txFrame_frame]
    rfl
  · rfl

/-- `ModStep` writes the TX engine and its FIFO alone (rule R170). -/
theorem modStep_frame (s : State) : modStep s = s.withTx (modStep s).txView := by
  unfold modStep
  conv => lhs; rw [symbolClock_frame, advancePhase_frame]
  conv => rhs; rw [symbolClock_frame, advancePhase_frame]
  rfl

/-- `DialStep` writes `DIAL_MODE`, the event port and the TX FIFO alone (rule R195). -/
theorem dialStep_frame (s : State) :
    dialStep s = { s with dialMode := (dialStep s).dialMode, dtmfSend := (dialStep s).dtmfSend, txf := (dialStep s).txf } := by
  unfold dialStep
  split
  · rfl
  · split <;> rfl

/-- The transmit part writes the TX engine, its FIFO, `DIAL_MODE` and the event port alone (rules R111 and R112). -/
theorem tickTransmit_frame (s : State) :
    tickTransmit s =
      { s.withTx (tickTransmit s).txView with
        dialMode := (tickTransmit s).dialMode, dtmfSend := (tickTransmit s).dtmfSend } := by
  unfold tickTransmit
  split
  · conv => lhs; rw [dialStep_frame]
    conv => rhs; rw [dialStep_frame]
    rfl
  · conv => lhs; rw [modStep_frame]
    conv => rhs; rw [modStep_frame]
    rfl

/-! The receive part. -/

theorem carrierStep_frame (bit : Bool) (s : State) :
    carrierStep bit s = s.withFramer (carrierStep bit s).framerView := by
  unfold carrierStep; split
  · rfl
  · split <;> rfl

theorem rxEdgeSearch_frame (s : State) : rxEdgeSearch s = s.withFramer (rxEdgeSearch s).framerView := by
  unfold rxEdgeSearch; split <;> rfl

theorem rxWait_frame (s : State) : rxWait s = s.withFramer (rxWait s).framerView := by
  unfold rxWait
  split
  · split
    · conv => lhs; rw [rxEdgeSearch_frame]
      rfl
    · split
      · rfl
      · conv => lhs; rw [rxEdgeSearch_frame]
        rfl
  · exact rxEdgeSearch_frame s

theorem rxPreambleCheck_frame (s : State) : rxPreambleCheck s = s.withFramer (rxPreambleCheck s).framerView := by
  unfold rxPreambleCheck
  split
  · split <;> rfl
  · rfl

theorem rxStartBitCheck_frame (s : State) : rxStartBitCheck s = s.withFramer (rxStartBitCheck s).framerView := by
  unfold rxStartBitCheck
  split
  · split <;> rfl
  · rfl

theorem rxDataBitCheck_frame (s : State) : rxDataBitCheck s = s.withFramer (rxDataBitCheck s).framerView := by
  unfold rxDataBitCheck; split <;> rfl

theorem rxStopBitCheck_frame (s : State) : rxStopBitCheck s = s.withFramer (rxStopBitCheck s).framerView := by
  unfold rxStopBitCheck
  split
  · split <;> rfl
  · rfl

/-- The RX framer writes the framer's registers, the carrier detector and the RX FIFO alone (rule R220). -/
theorem rxFrame_frame (bit : Bool) (s : State) : rxFrame bit s = s.withFramer (rxFrame bit s).framerView := by
  unfold rxFrame
  split
  · exact rxWait_frame s
  · exact (rxPreambleCheck_frame (countDecision bit s)).trans rfl
  · exact (rxStartBitCheck_frame (countDecision bit s)).trans rfl
  · exact (rxDataBitCheck_frame (countDecision bit s)).trans rfl
  · exact (rxStopBitCheck_frame (countDecision bit s)).trans rfl
  · exact carrierStep_frame bit s
  all_goals rfl

/-- `DemodStep` writes the signal chain, the framer and the carrier detector alone (rule R210). -/
theorem demodStep_frame (raw : Byte) (s : State) :
    demodStep raw s = (s.withChain (demodStep raw s).chainView).withFramer (demodStep raw s).framerView := by
  unfold demodStep takeDecision
  conv => lhs; rw [rxFrame_frame]
  conv => rhs; rw [rxFrame_frame]
  rfl

/-! What the framer reads. -/

/-- What the RX framer reads of a state. -/
structure SameReceiver (s u : State) : Prop where
  build   : s.build = u.build
  control : s.controlView = u.controlView
  framer  : s.framerView = u.framerView
  hist    : s.rxHist = u.rxHist

/-- The second state is any other state with those fields put in. -/
theorem SameReceiver.exists_eq {s u : State} (h : SameReceiver s u) :
    u = { u with build := s.build, cfgProfile := s.cfgProfile, cfgDir := s.cfgDir, cfgCdTenths := s.cfgCdTenths,
                 cfgLossTenths := s.cfgLossTenths, cfgWaitSeconds := s.cfgWaitSeconds, cfgOpt := s.cfgOpt,
                 rxState := s.rxState, rxBitsum := s.rxBitsum, rxCnt := s.rxCnt, rxByte := s.rxByte, rxBits := s.rxBits,
                 carrierLocked := s.carrierLocked, cdStreak := s.cdStreak, waitCnt := s.waitCnt, lossCnt := s.lossCnt,
                 acqFailed := s.acqFailed, rxf := s.rxf, rxHist := s.rxHist } := by
  obtain ⟨hb, hc, hf, hh⟩ := h
  simp only [State.controlView, ControlView.mk.injEq] at hc
  simp only [State.framerView, FramerView.mk.injEq] at hf
  cases u
  simp_all

/-- The RX framer reads nothing of the transmitter and of the ports (rule R111). -/
theorem rxFrame_framerView_congr (bit : Bool) {s u : State} (h : SameReceiver s u) :
    (rxFrame bit s).framerView = (rxFrame bit u).framerView := by
  rw [h.exists_eq]
  generalize u = v
  unfold rxFrame
  dsimp only
  split
  · simp only [rxWait, rxEdgeSearch, apply_ite State.framerView]; rfl
  · simp only [rxPreambleCheck, apply_ite State.framerView]; rfl
  · simp only [rxStartBitCheck, apply_ite State.framerView]; rfl
  · simp only [rxDataBitCheck, apply_ite State.framerView]; rfl
  · simp only [rxStopBitCheck, apply_ite State.framerView]; rfl
  · simp only [carrierStep, apply_ite State.framerView]; rfl
  all_goals rfl

/-! A whole TICK. -/

/-- The state that a TICK leaves (rule R111). -/
def State.afterTick (x : Byte) (s : State) : State := { demodStep x (tickTransmit s) with txSample := tickOut s }

theorem exec_tick (x : Byte) (s : State) : exec (.tick x) s = .next (s.afterTick x) := rfl

/-- The one outcome of a TICK. -/
theorem exec_tick_inv {x : Byte} {s t : State} (h : exec (.tick x) s = .next t) : t = s.afterTick x := by
  rw [exec_tick] at h
  exact (Host.Outcome.next.inj h).symm

/-- A TICK changes the views, the output sample, `DIAL_MODE` and the event port, and nothing else (rules R71 and R113). -/
theorem afterTick_frame (x : Byte) (s : State) :
    s.afterTick x =
      { ((s.withTx (tickTransmit s).txView).withChain (s.afterTick x).chainView).withFramer
          (s.afterTick x).framerView with
        dialMode := (tickTransmit s).dialMode, dtmfSend := (tickTransmit s).dtmfSend, txSample := tickOut s } := by
  have hd := demodStep_frame x (tickTransmit s)
  have ht := tickTransmit_frame s
  have hc : (s.afterTick x).chainView = (demodStep x (tickTransmit s)).chainView := rfl
  have hf : (s.afterTick x).framerView = (demodStep x (tickTransmit s)).framerView := rfl
  rw [hc, hf, State.afterTick, hd]
  generalize (demodStep x (tickTransmit s)).chainView = c
  generalize (demodStep x (tickTransmit s)).framerView = f
  generalize tickTransmit s = t at ht ⊢
  rw [ht]
  rfl

/-- The transmitter after a TICK is that of the transmit part (rule R111). -/
theorem afterTick_txView (x : Byte) (s : State) : (s.afterTick x).txView = (tickTransmit s).txView := by
  rw [afterTick_frame]; rfl

theorem afterTick_txSample (x : Byte) (s : State) : (s.afterTick x).txSample = tickOut s := rfl

theorem afterTick_dialMode (x : Byte) (s : State) : (s.afterTick x).dialMode = (tickTransmit s).dialMode := by
  rw [afterTick_frame]

theorem afterTick_dtmfSend (x : Byte) (s : State) : (s.afterTick x).dtmfSend = (tickTransmit s).dtmfSend := by
  rw [afterTick_frame]

theorem afterTick_build (x : Byte) (s : State) : (s.afterTick x).build = s.build := by rw [afterTick_frame]; rfl

theorem afterTick_controlView (x : Byte) (s : State) : (s.afterTick x).controlView = s.controlView := by
  rw [afterTick_frame]; rfl

/-- The transmit part leaves the receiver as it is. -/
theorem tickTransmit_sameReceiver (s : State) : SameReceiver (tickTransmit s) s := by
  rw [tickTransmit_frame]; exact ⟨rfl, rfl, rfl, rfl⟩

/-- The signal chain after a TICK: the chain and the history of the state found, whatever is transmitted. -/
theorem afterTick_chainView (x : Byte) (s : State) :
    (s.afterTick x).chainView = (pushHistory (signalChain x s).decision (signalChain x s)).chainView := by
  unfold State.afterTick demodStep takeDecision
  rw [rxFrame_frame, tickTransmit_frame]
  rfl

/-- The decision that a TICK takes is bit 0 of the history it leaves (rule R218). -/
theorem pushHistory_newest (bit : Bool) (s : State) : (pushHistory bit s).rxHist.getLsbD 0 = bit := by
  cases bit <;> simp [bitVal]

/-- The receiver after a TICK: the framer's rule on the newest decision and the new history (rule R220). -/
theorem afterTick_framerView (x : Byte) (s : State) :
    (s.afterTick x).framerView =
      (rxFrame ((s.afterTick x).rxHist.getLsbD 0) { s with rxHist := (s.afterTick x).rxHist }).framerView := by
  have hc := congrArg ChainView.rxHist (afterTick_chainView x s)
  have hh : (s.afterTick x).rxHist = (pushHistory (signalChain x s).decision (signalChain x s)).rxHist := hc
  rw [hh, pushHistory_newest]
  have hd : (signalChain x (tickTransmit s)).decision = (signalChain x s).decision := by
    rw [tickTransmit_frame]; rfl
  unfold State.afterTick demodStep takeDecision
  rw [hd]
  refine Eq.trans (b := (rxFrame (signalChain x s).decision
    (pushHistory (signalChain x s).decision (signalChain x (tickTransmit s)))).framerView) rfl ?_
  refine rxFrame_framerView_congr _ ⟨?_, ?_, ?_, ?_⟩ <;> (rw [tickTransmit_frame]; rfl)

end Sys2Proof.Machine
end

