-- ==== Sys2Proof/Laws/Ops.lean ====
section
/-! SUPPORT. The laws of the shared operations: the response word, `Reconfigure` and `Acquire` (30_encoding.md rule R84,
45_line_control.md rules R262 and R266). -/

namespace Sys2Proof.Machine

/-- The response word as a number: `DATA`, `FLAG` at 2^8, `ERR` at 2^15 (rule R84). -/
theorem responseWord_toNat : ∀ (err flag : Bool) (data : Byte),
    (responseWord err flag data).toNat = data.toNat + 256 * bitVal flag + 32768 * bitVal err := by decide

theorem responseWord_data (data : Byte) : responseWord false false data = 0x00#8 ++ data := rfl

theorem responseWord_flagged (data : Byte) : responseWord false true data = 0x01#8 ++ data := rfl

/-- `Reconfigure` leaves the live delay-line entries at 0x80 (rule R266). -/
theorem reconfigure_dlRead_live {s : State} {k : Nat} (h : memWf dlFill s.build.maxQueuelen s.dl = true)
    (hk : k < s.queuelen) : s.reconfigure.dlRead k = 0x80 :=
  memRead_memFill_same h hk

/-- `Reconfigure` leaves the other entries alone (rule R266). -/
theorem reconfigure_dlRead_other {s : State} {k : Nat} (hk : s.queuelen ≤ k) : s.reconfigure.dlRead k = s.dlRead k :=
  memRead_memFill_other _ _ _ hk

theorem memWf_reconfigure_dl {s : State} (hb : s.build.legal = true)
    (h : memWf dlFill s.build.maxQueuelen s.dl = true) : memWf dlFill s.build.maxQueuelen s.reconfigure.dl = true :=
  memWf_memFill h (queuelen_range hb).2

/-- A second `Reconfigure` changes nothing (rule R267). -/
theorem reconfigure_reconfigure {s : State} (h : memWf dlFill s.build.maxQueuelen s.dl = true) :
    s.reconfigure.reconfigure = s.reconfigure := by
  have hd : memFill dlFill 0x80 (memFill dlFill 0x80 s.dl s.queuelen) s.queuelen = memFill dlFill 0x80 s.dl s.queuelen :=
    memFill_of_read (memWfFrom_memFill (max s.build.maxQueuelen s.queuelen) h (Nat.le_refl _))
      (fun _ hi => memRead_memFill_same h hi)
  show ({ s.reconfigure with
    dl := memFill dlFill 0x80 (memFill dlFill 0x80 s.dl s.queuelen) s.queuelen } : State) = _
  rw [hd]; rfl

/-- `Acquire` is an immediate lock or the start of a waiting acquisition (rule R262). -/
theorem acquire_cases (s : State) :
    ((s.cfgWaitSeconds = 0 ∨ s.dcdIgnore = true) ∧ s.acquire = State.lockCarrier { s with acqFailed := false }) ∨
      (s.cfgWaitSeconds ≠ 0 ∧ s.dcdIgnore = false ∧
        s.acquire = { s with acqFailed := false, cdStreak := 0, waitCnt := BitVec.ofNat 24 s.waitSamples,
                             carrierLocked := false, rxState := .carrier }) := by
  unfold State.acquire
  split
  · next h => exact .inl ⟨by simpa using h, rfl⟩
  · next h =>
    have h' : s.cfgWaitSeconds ≠ 0 ∧ s.dcdIgnore = false := by simpa using h
    exact .inr ⟨h'.1, h'.2, rfl⟩

/-- On a legal build the loaded wait timer is not 0 (rules R49 and R262). -/
theorem waitSamples_loaded {s : State} (hb : s.build.legal = true) (h : s.cfgWaitSeconds ≠ 0) :
    BitVec.ofNat 24 s.waitSamples ≠ 0 := by
  have hr := (legal_ranges hb).1
  have h1 := s.cfgWaitSeconds.isLt
  have h2 : s.cfgWaitSeconds.toNat ≠ 0 := fun h' => h (BitVec.eq_of_toNat_eq h')
  have b1 : s.cfgWaitSeconds.toNat * s.build.sampleRate ≤ 255 * 65535 := Nat.mul_le_mul (by omega) hr.2
  have b2 : 1 * 1200 ≤ s.cfgWaitSeconds.toNat * s.build.sampleRate := Nat.mul_le_mul (by omega) hr.1
  intro h0
  have h3 := congrArg BitVec.toNat h0
  rw [BitVec.toNat_ofNat] at h3
  have h4 : (0 : BitVec 24).toNat = 0 := rfl
  unfold State.waitSamples at h3
  omega

end Sys2Proof.Machine
end

