-- ==== Sys2Proof/Laws/PerInstr.lean ====
section
/-! SUPPORT. One law per operation, about its encoding: the encoder's word is the one its row of the opcode map selects, and
the row reads the operation back (30_encoding.md rule R86). -/

namespace Sys2Proof.Laws.OpcodeRow

/-- The word of a command is selected by a row of the opcode map that reads the command back, operands and all.
A sample is a TICK (rule R87). -/
def Statement (i : Instr) : Prop :=
  match encode i with
  | .command w => ∃ (k : Nat) (r : Row), opcodeTable[k]? = some r ∧ r.selects w = true ∧ r.read w = i
  | .sample b  => i = .tick b

theorem nop : Statement .nop := ⟨0, _, rfl, by decide, rfl⟩

theorem txpush (b : Byte) : Statement (.txpush b) :=
  ⟨1, _, rfl, by revert b; decide, congrArg Instr.txpush (wordImm_wordOf 0x01 b)⟩

theorem rxpop : Statement .rxpop := ⟨2, _, rfl, by decide, rfl⟩

theorem rxpeek : Statement .rxpeek := ⟨3, _, rfl, by decide, rfl⟩

theorem fifolen (f : FifoSel) : Statement (.fifolen f) := by
  cases f <;> exact ⟨4, _, rfl, by decide, by decide⟩

theorem fifoclr (t r : Bool) : Statement (.fifoclr t r) := by
  cases t <;> cases r <;> exact ⟨5, _, rfl, by decide, by decide⟩

theorem setprofile (p : BitVec 1) : Statement (.setprofile p) :=
  ⟨6, _, rfl, by revert p; decide, by revert p; decide⟩

theorem setdir (a r : Bool) : Statement (.setdir a r) := by
  cases a <;> cases r <;> exact ⟨7, _, rfl, by decide, by decide⟩

theorem settxcar (v : Bool) : Statement (.settxcar v) := by
  cases v <;> exact ⟨8, _, rfl, by decide, by decide⟩

theorem setrxcar (v : Bool) : Statement (.setrxcar v) := by
  cases v <;> exact ⟨9, _, rfl, by decide, by decide⟩

theorem acknc : Statement .acknc := ⟨10, _, rfl, by decide, rfl⟩

theorem status (g : BitVec 2) : Statement (.status g) :=
  ⟨11, _, rfl, by revert g; decide, by revert g; decide⟩

theorem setcdt (n : Byte) : Statement (.setcdt n) :=
  ⟨12, _, rfl, by revert n; decide, congrArg Instr.setcdt (wordImm_wordOf 0x20 n)⟩

theorem setloss (n : Byte) : Statement (.setloss n) :=
  ⟨13, _, rfl, by revert n; decide, congrArg Instr.setloss (wordImm_wordOf 0x21 n)⟩

theorem setwait (n : Byte) : Statement (.setwait n) :=
  ⟨14, _, rfl, by revert n; decide, congrArg Instr.setwait (wordImm_wordOf 0x22 n)⟩

theorem setopt (g u : Bool) : Statement (.setopt g u) := by
  cases g <;> cases u <;> exact ⟨15, _, rfl, by decide, by decide⟩

theorem cfgrd (k : CfgReg) : Statement (.cfgrd k) := by
  cases k <;> exact ⟨16, _, rfl, by decide, by decide⟩

theorem dial (v : Bool) : Statement (.dial v) := by
  cases v <;> exact ⟨17, _, rfl, by decide, by decide⟩

theorem tick (s : Byte) : Statement (.tick s) := rfl

end Sys2Proof.Laws.OpcodeRow
end

