-- ==== Sys2Proof/Laws/Receiver.lean ====
section
/-! SUPPORT. What the receive part of a TICK can do, state by state (44_demodulator.md rules R220 to R228,
45_line_control.md rule R263). -/

namespace Sys2Proof.Machine

theorem State.nextStreak_toNat (s : State) (bit : Bool) :
    (s.nextStreak bit).toNat = if bit then min (s.cdStreak.toNat + 1) maxCount else 0 := by
  cases bit
  · rfl
  · show (BitVec.ofNat 24 (min (s.cdStreak.toNat + 1) maxCount)).toNat = min (s.cdStreak.toNat + 1) maxCount
    rw [BitVec.toNat_ofNat]
    unfold maxCount
    omega

/-- The wait timer runs out on the TICK that finds it at 1 or 0 (rule R263). -/
theorem State.nextWait_eq_zero_iff (s : State) : s.nextWait = 0 ↔ s.waitCnt.toNat ≤ 1 := by
  have hw := s.waitCnt.isLt
  unfold State.nextWait
  have h0 : (0 : BitVec 24).toNat = 0 := rfl
  have h1 : (1 : BitVec 24).toNat = 1 := rfl
  rw [← BitVec.toNat_inj, h0]
  split
  · rw [BitVec.toNat_sub, h1]; omega
  · omega

/-- `CarrierStep`: a lock, a timeout, or one TICK of waiting (rule R263). -/
theorem carrierStep_cases (bit : Bool) (s : State) :
    (s.cdTotal ≤ (s.nextStreak bit).toNat ∧
        carrierStep bit s = State.lockCarrier { s with cdStreak := s.nextStreak bit }) ∨
      ((s.nextStreak bit).toNat < s.cdTotal ∧ s.waitCnt.toNat ≤ 1 ∧
        carrierStep bit s =
          { s with cdStreak := s.nextStreak bit, waitCnt := 0, acqFailed := true, rxState := .nop }) ∨
      ((s.nextStreak bit).toNat < s.cdTotal ∧ 1 < s.waitCnt.toNat ∧
        carrierStep bit s = { s with cdStreak := s.nextStreak bit, waitCnt := s.waitCnt - 1 }) := by
  unfold carrierStep
  by_cases h1 : s.cdTotal ≤ (s.nextStreak bit).toNat
  · exact .inl ⟨h1, if_pos h1⟩
  · rw [if_neg h1]
    right
    by_cases h2 : s.waitCnt.toNat ≤ 1
    · left
      have h3 := s.nextWait_eq_zero_iff.mpr h2
      rw [if_pos h3, h3]
      exact ⟨by omega, h2, rfl⟩
    · right
      have h3 : ¬ s.nextWait = 0 := fun h => h2 (s.nextWait_eq_zero_iff.mp h)
      have h4 : s.nextWait = s.waitCnt - 1 := if_pos (by omega)
      rw [if_neg h3, h4]
      exact ⟨by omega, by omega, rfl⟩

/-- The edge search opens a window, or leaves the state as it is (rule R222). -/
theorem rxEdgeSearch_cases (s : State) :
    rxEdgeSearch s = s ∨ rxEdgeSearch s = { s with rxBitsum := 0, rxCnt := 0, rxState := .preamble } := by
  unfold rxEdgeSearch
  split
  · exact .inr rfl
  · exact .inl rfl

/-- WAIT: the carrier is lost, or the loss timer is set to some value and the edge search follows (rules R221 and R222). -/
theorem rxWait_cases (s : State) :
    (s.carrierLocked = true ∧ rxWait s = s.loseCarrier) ∨ ∃ n, rxWait s = rxEdgeSearch { s with lossCnt := n } := by
  unfold rxWait
  split
  · next h =>
    split
    · exact .inr ⟨_, rfl⟩
    · split
      · exact .inl ⟨(Bool.and_eq_true _ _ ▸ h).1, rfl⟩
      · exact .inr ⟨_, rfl⟩
  · exact .inr ⟨s.lossCnt, rfl⟩

/-- The states that the framer can move to (rules R221 to R228 and R263). -/
def RxState.successors : RxState → List RxState
  | .wait      => [.wait, .preamble, .noCarrier]
  | .preamble  => [.preamble, .startBit, .wait]
  | .startBit  => [.startBit, .dataBit, .wait]
  | .dataBit   => [.dataBit, .stopBit]
  | .stopBit   => [.stopBit, .wait]
  | .carrier   => [.carrier, .wait, .nop]
  | .noCarrier => [.noCarrier]
  | .nop       => [.nop]

theorem rxFrame_rxState (bit : Bool) (s : State) : (rxFrame bit s).rxState ∈ s.rxState.successors := by
  cases hs : s.rxState
  · rw [rxFrame_of_wait hs]
    rcases rxWait_cases s with ⟨_, h⟩ | ⟨n, h⟩ <;> rw [h]
    · simp [RxState.successors]
    · rcases rxEdgeSearch_cases { s with lossCnt := n } with h | h <;> rw [h] <;> simp [RxState.successors, hs]
  · rw [rxFrame_of_preamble hs]; unfold rxPreambleCheck
    split
    · split <;> simp [RxState.successors]
    · simp [RxState.successors, hs]
  · rw [rxFrame_of_startBit hs]; unfold rxStartBitCheck
    split
    · split <;> simp [RxState.successors]
    · simp [RxState.successors, hs]
  · rw [rxFrame_of_dataBit hs]; unfold rxDataBitCheck
    split
    · dsimp only; split <;> simp [RxState.successors]
    · simp [RxState.successors, hs]
  · rw [rxFrame_of_stopBit hs]; unfold rxStopBitCheck
    split
    · split <;> simp [RxState.successors]
    · simp [RxState.successors, hs]
  · rw [rxFrame_of_carrier hs]
    rcases carrierStep_cases bit s with ⟨_, h⟩ | ⟨_, _, h⟩ | ⟨_, _, h⟩ <;> rw [h] <;> simp [RxState.successors, hs]
  · rw [rxFrame_of_noCarrier hs, hs]; simp [RxState.successors]
  · rw [rxFrame_of_nop hs, hs]; simp [RxState.successors]

/-- The framer leaves the RX FIFO as it is, or pushes the received byte at the end of a stop bit (rule R228). -/
theorem rxFrame_rxf (bit : Bool) (s : State) :
    (rxFrame bit s).rxf = s.rxf ∨
      (s.rxState = .stopBit ∧ (rxFrame bit s).rxf = s.rxf.push s.build.rxFifoBits s.rxByte) := by
  cases hs : s.rxState
  · rw [rxFrame_of_wait hs]; left
    rcases rxWait_cases s with ⟨_, h⟩ | ⟨n, h⟩ <;> rw [h]
    · rfl
    · rcases rxEdgeSearch_cases { s with lossCnt := n } with h | h <;> rw [h]
  · rw [rxFrame_of_preamble hs]; left; unfold rxPreambleCheck
    split
    · split <;> rfl
    · rfl
  · rw [rxFrame_of_startBit hs]; left; unfold rxStartBitCheck
    split
    · split <;> rfl
    · rfl
  · rw [rxFrame_of_dataBit hs]; left; unfold rxDataBitCheck
    split <;> rfl
  · rw [rxFrame_of_stopBit hs]; unfold rxStopBitCheck
    split
    · split
      · exact .inr ⟨rfl, rfl⟩
      · exact .inl rfl
    · exact .inl rfl
  · rw [rxFrame_of_carrier hs]; left
    rcases carrierStep_cases bit s with ⟨_, h⟩ | ⟨_, _, h⟩ | ⟨_, _, h⟩ <;> rw [h] <;> rfl
  · rw [rxFrame_of_noCarrier hs]; left; rfl
  · rw [rxFrame_of_nop hs]; left; rfl

/-- The RX FIFO after a TICK. -/
theorem afterTick_rxf (x : Byte) (s : State) :
    (s.afterTick x).rxf = s.rxf ∨
      (s.rxState = .stopBit ∧ (s.afterTick x).rxf = s.rxf.push s.build.rxFifoBits s.rxByte) := by
  have h : (s.afterTick x).rxf = _ := congrArg FramerView.rxf (afterTick_framerView x s)
  rw [h]
  exact rxFrame_rxf _ _

/-- The state of the receiver after a TICK. -/
theorem afterTick_rxState (x : Byte) (s : State) : (s.afterTick x).rxState ∈ s.rxState.successors := by
  have h : (s.afterTick x).rxState = _ := congrArg FramerView.rxState (afterTick_framerView x s)
  rw [h]
  exact rxFrame_rxState _ { s with rxHist := (s.afterTick x).rxHist }

/-- The delay line after a TICK (rule R212). -/
theorem afterTick_dl (x : Byte) (s : State) : (s.afterTick x).dl = delayPush s.queuelen s.dl x :=
  congrArg ChainView.dl (afterTick_chainView x s)

end Sys2Proof.Machine
end

