-- ==== Sys2Proof/Laws/Runs.lean ====
section
/-! SUPPORT. The laws of runs: of TICKs, and of decisions fed straight into the framer. -/

namespace Sys2Proof.Machine

theorem tickRun_nil (s : State) : tickRun [] s = s := rfl

theorem tickRun_cons (x : Byte) (xs : List Byte) (s : State) : tickRun (x :: xs) s = tickRun xs (s.afterTick x) := rfl

theorem tickRun_append (xs ys : List Byte) (s : State) : tickRun (xs ++ ys) s = tickRun ys (tickRun xs s) := by
  unfold tickRun; rw [List.foldl_append]

theorem decisionRun_nil (s : State) : decisionRun [] s = s := rfl

theorem decisionRun_cons (bit : Bool) (bits : List Bool) (s : State) :
    decisionRun (bit :: bits) s = decisionRun bits (takeDecision bit s) := rfl

theorem decisionRun_append (as bs : List Bool) (s : State) :
    decisionRun (as ++ bs) s = decisionRun bs (decisionRun as s) := by
  unfold decisionRun; rw [List.foldl_append]

/-- The history after a decision ends with it (rule R218). -/
theorem takeDecision_rxHist (bit : Bool) (s : State) : (takeDecision bit s).rxHist = (pushHistory bit s).rxHist := by
  unfold takeDecision; rw [rxFrame_frame]; rfl

theorem takeDecision_newest (bit : Bool) (s : State) : (takeDecision bit s).rxHist.getLsbD 0 = bit := by
  rw [takeDecision_rxHist]; exact pushHistory_newest bit s

/-- A decision writes the history and the framer, and nothing else (rules R218 and R220). -/
theorem takeDecision_frame (bit : Bool) (s : State) :
    takeDecision bit s = (pushHistory bit s).withFramer (takeDecision bit s).framerView := by
  unfold takeDecision
  conv => lhs; rw [rxFrame_frame]

end Sys2Proof.Machine
end

