-- ==== Sys2Proof/Laws/Step.lean ====
section
/-! SUPPORT. What one step can do, said once: it waits, resets, answers an illegal word, or runs one operation. -/

namespace Sys2Proof.Machine

/-- A state in which only what the ports hold differs: the waiting operations and the levels of the DTMF inputs. -/
def State.withPorts (s : State) (rest : List PortOp) (a : Bool) (d : BitVec 8) : State :=
  { s with input := rest, dtmfActive := a, dtmfSample := d }

/-- What the ports give on a legal build. -/
theorem takeOp_cases {s : State} (h : s.build.legal = true) :
    takeOp s = .nothing ∨
      (∃ rest a d, takeOp s = .reset (s.withPorts rest a d)) ∨
      (∃ r rest a d, takeOp s = .illegal r (s.withPorts rest a d)) ∨
      (∃ i rest a d, takeOp s = .instr i (s.withPorts rest a d)) := by
  unfold takeOp
  rw [if_pos h]
  split
  · exact .inl rfl
  · next w rest _ =>
    refine .inr (.inr ?_)
    unfold Taken.ofDecoded
    split
    · exact .inr ⟨_, rest, s.dtmfActive, s.dtmfSample, rfl⟩
    · exact .inl ⟨_, rest, s.dtmfActive, s.dtmfSample, rfl⟩
  · next x a d rest _ => exact .inr (.inr (.inr ⟨_, rest, a, d, rfl⟩))
  · next rest _ => exact .inr (.inl ⟨rest, s.dtmfActive, s.dtmfSample, rfl⟩)

/-- Everything a step that goes on can have done. -/
theorem step_cases {s t : State} (h : step s = .next t) :
    s.build.legal = true ∧
      (t = s ∨ (∃ rest a d, t = (s.withPorts rest a d).resetEvent) ∨
        (∃ rest a d, t = (s.withPorts rest a d).rejectCommand) ∨
        (∃ i rest a d, exec i (s.withPorts rest a d) = .next t)) := by
  by_cases hb : s.build.legal = true
  · refine ⟨hb, ?_⟩
    unfold step at h
    rcases takeOp_cases hb with hT | ⟨rest, a, d, hT⟩ | ⟨r, rest, a, d, hT⟩ | ⟨i, rest, a, d, hT⟩ <;> rw [hT] at h
    · injection h with h; exact .inl h.symm
    · injection h with h; exact .inr (.inl ⟨rest, a, d, h.symm⟩)
    · injection h with h; exact .inr (.inr (.inl ⟨rest, a, d, h.symm⟩))
    · exact .inr (.inr (.inr ⟨i, rest, a, d, h⟩))
  · unfold step takeOp at h
    rw [if_neg hb] at h
    cases h

end Sys2Proof.Machine
end

