-- ==== Sys2Proof/Laws/Transmitter.lean ====
section
/-! SUPPORT. What the transmit part of a TICK can do to the TX FIFO, and the part as an equation in each of its three
forms (40_tick.md rule R112, 43_modulator.md rules R170 to R175). -/

namespace Sys2Proof.Machine

/-- The TX framer leaves the TX FIFO as it is, or takes one byte from it (rules R181, R185 and R186). -/
theorem txFrame_txf (s : State) :
    (txFrame s).txf = s.txf ∨ (txFrame s).txf = s.txf.pop s.build.txFifoBits := by
  unfold txFrame
  split
  · left; unfold txPreamble; dsimp only; split <;> rfl
  · left; rfl
  · left; unfold txDataBit; split <;> rfl
  · unfold txStopBit; split
    · left; rfl
    · right; rfl
  · unfold txTrail; split
    · left; split <;> rfl
    · right; rfl
  all_goals
    unfold txWait; split
    · left; rfl
    · right; rfl

/-- The transmit part leaves the TX FIFO as it is, or takes one byte from it. -/
theorem tickTransmit_txf (s : State) :
    (tickTransmit s).txf = s.txf ∨ (tickTransmit s).txf = s.txf.pop s.build.txFifoBits := by
  unfold tickTransmit
  split
  · unfold dialStep
    split
    · left; rfl
    · split
      · left; rfl
      · right; rfl
  · unfold modStep symbolClock
    dsimp only
    split
    · exact txFrame_txf _
    · left; rfl

/-- The host's index and the buffer of the TX FIFO are the transmit part's to read, not to write. -/
theorem tickTransmit_txf_host (s : State) :
    (tickTransmit s).txf.inIdx = s.txf.inIdx ∧ (tickTransmit s).txf.buf = s.txf.buf := by
  rcases tickTransmit_txf s with h | h <;> rw [h]
  · exact ⟨rfl, rfl⟩
  · exact ⟨Fifo.pop_inIdx _ _, Fifo.pop_buf _ _⟩

theorem wf_tickTransmit_txf {s : State} (hb : s.build.txFifoBits ≤ 8) (h : s.txf.wf s.build.txFifoBits = true) :
    (tickTransmit s).txf.wf s.build.txFifoBits = true := by
  rcases tickTransmit_txf s with e | e <;> rw [e]
  · exact h
  · exact Fifo.wf_pop hb h

/-- Outside dial mode, with the symbol clock not at its end, a TICK advances the phase and counts (rule R174). -/
theorem tickTransmit_mid {s : State} (hd : s.dialMode = false) (h : (wrap8 (s.txCnt.toNat + 1)).toNat < s.spb) :
    tickTransmit s = { s with dtmfSend := none, txPhase := s.nextPhase, txCnt := wrap8 (s.txCnt.toNat + 1) } := by
  unfold tickTransmit modStep symbolClock
  rw [hd, if_neg Bool.false_ne_true]
  exact if_neg (Nat.not_le_of_lt h)

/-- Outside dial mode, at the end of the symbol clock, a TICK advances the phase and runs the framer (rule R174). -/
theorem tickTransmit_symbol {s : State} (hd : s.dialMode = false) (h : s.spb ≤ (wrap8 (s.txCnt.toNat + 1)).toNat) :
    tickTransmit s = txFrame { s with dtmfSend := none, txPhase := s.nextPhase, txCnt := 0 } := by
  unfold tickTransmit modStep symbolClock
  rw [hd, if_neg Bool.false_ne_true]
  exact if_pos h

/-- In dial mode a TICK runs `DialStep` (rule R112). -/
theorem tickTransmit_dial {s : State} (hd : s.dialMode = true) :
    tickTransmit s = dialStep { s with dtmfSend := none } := by
  unfold tickTransmit; rw [hd, if_pos rfl]

end Sys2Proof.Machine
end

