-- ==== Sys2Proof/Tests/Slice0.lean ====
section
/-! SUPPORT. The model's own tests: words written out from the encodings of 30_encoding.md rule R86, single steps with the
results of 95_test_vectors.md, and for every obligation with hypotheses a state and operands that meet them. -/

namespace Sys2Proof.Tests

open Sys2Proof.Machine

/-! Well-formedness and decoding. -/

/-- `STATUS` page 3 is reserved (rule R88). -/
theorem test_wellFormed_refuses_page3 : (Instr.status 3).wellFormed = false := by decide

theorem test_wellFormed_page2 : (Instr.status 2).wellFormed = true := by decide

theorem test_decode_nop : decodeCommand 0b0000000000000000 = .instr .nop := by decide
theorem test_decode_txpush : decodeCommand 0b0000000110100101 = .instr (.txpush 0xA5) := by decide
theorem test_decode_rxpop : decodeCommand 0b0000001000000000 = .instr .rxpop := by decide
theorem test_decode_rxpeek : decodeCommand 0b0000001100000000 = .instr .rxpeek := by decide
theorem test_decode_fifolen :
    decodeCommand 0b0000010000000000 = .instr (.fifolen .tx) ∧
      decodeCommand 0b0000010000000001 = .instr (.fifolen .rx) := by decide
theorem test_decode_fifoclr :
    decodeCommand 0b0000010100000001 = .instr (.fifoclr true false) ∧
      decodeCommand 0b0000010100000010 = .instr (.fifoclr false true) := by decide
theorem test_decode_setprofile : decodeCommand 0b0001000000000001 = .instr (.setprofile 1) := by decide
theorem test_decode_setdir :
    decodeCommand 0b0001000100000001 = .instr (.setdir true false) ∧
      decodeCommand 0b0001000100000010 = .instr (.setdir false true) := by decide
theorem test_decode_settxcar : decodeCommand 0b0001001000000001 = .instr (.settxcar true) := by decide
theorem test_decode_setrxcar : decodeCommand 0b0001001100000001 = .instr (.setrxcar true) := by decide
theorem test_decode_acknc : decodeCommand 0b0001010000000000 = .instr .acknc := by decide
theorem test_decode_status :
    decodeCommand 0b0001010100000001 = .instr (.status 1) ∧
      decodeCommand 0b0001010100000010 = .instr (.status 2) := by decide
theorem test_decode_setcdt : decodeCommand 0b0010000011001000 = .instr (.setcdt 200) := by decide
theorem test_decode_setloss : decodeCommand 0b0010000100001010 = .instr (.setloss 10) := by decide
theorem test_decode_setwait : decodeCommand 0b0010001011111111 = .instr (.setwait 255) := by decide
theorem test_decode_setopt :
    decodeCommand 0b0010001100000001 = .instr (.setopt true false) ∧
      decodeCommand 0b0010001100000010 = .instr (.setopt false true) := by decide
theorem test_decode_cfgrd :
    decodeCommand 0b0010010000000001 = .instr (.cfgrd .loss) ∧
      decodeCommand 0b0010010000000010 = .instr (.cfgrd .wait) := by decide
theorem test_decode_dial : decodeCommand 0b0011000000000001 = .instr (.dial true) := by decide
theorem test_decode_tick : decode (.sample 0b01010101) = .instr (.tick 0x55) := by decide

/-- The illegal words of V4. -/
theorem test_decode_illegal_words :
    decodeCommand 0x0001 = .rejected .reservedBits ∧ decodeCommand 0x0201 = .rejected .reservedBits ∧
      decodeCommand 0x0402 = .rejected .reservedBits ∧ decodeCommand 0x0504 = .rejected .reservedBits ∧
      decodeCommand 0x0601 = .rejected .illegalOpcode ∧ decodeCommand 0x0F00 = .rejected .illegalOpcode ∧
      decodeCommand 0x1002 = .rejected .reservedBits ∧ decodeCommand 0x1104 = .rejected .reservedBits ∧
      decodeCommand 0x1401 = .rejected .reservedBits ∧ decodeCommand 0x1503 = .rejected .reservedPage ∧
      decodeCommand 0x2304 = .rejected .reservedBits ∧ decodeCommand 0x2404 = .rejected .reservedBits ∧
      decodeCommand 0x3002 = .rejected .reservedBits ∧ decodeCommand 0x3100 = .rejected .illegalOpcode ∧
      decodeCommand 0xFFFF = .rejected .illegalOpcode := by decide

theorem test_decodeTableWord_widths :
    decodeTableWord 16 0x0141 = some (.txpush 0x41) ∧ decodeTableWord 8 0x81 = some (.tick 0x81) ∧
      decodeTableWord 24 0x0141 = none := by decide

/-- A command word on a byte-wide transport: bits 15 to 8 first (20_memory.md rule R66). -/
theorem test_transport_bytes : commandOfBytes 0x01 0x41 = 0x0141 ∧ bytesOfWord 0x0141 = [0x01, 0x41] := by decide

/-! The textual form (rules R91 to R93). -/

theorem test_assemble_commands :
    assembleLine "TXPUSH 0x41 ; one byte".toList = some [.command 0x0141] ∧
      assembleLine "SETDIR ANS, REV".toList = some [.command 0x1103] ∧
      assembleLine "SETOPT IGNORE|FOLLOWS".toList = some [.command 0x2303] ∧
      assembleLine "STATUS 3".toList = none ∧ assembleLine "TXPUSH 256".toList = none := by decide

theorem test_assemble_pseudo_operations :
    assembleLine "TICKS 3, 0x80".toList = some [.sample 0x80, .sample 0x80, .sample 0x80] ∧
      assembleLine "SEND 1, 0b10".toList = some [.command 0x0101, .command 0x0102] ∧
      assembleLine "FLUSH".toList = some [.command 0x0503] ∧
      assembleLine "LISTEN".toList = some [.command 0x1301] := by decide

/-! Single steps. -/

/-- The state after a command word at the host port. -/
def afterWord (w : Word) (s : State) : State := (nextState (step { s with input := [.command w] })).getD s

/-- The response to a command word. -/
def response (w : Word) (s : State) : Word := (afterWord w s).rsp

/-- The state after a sample, with the DTMF inputs idle. -/
def afterSample (x : Byte) (s : State) : State := (nextState (step { s with input := [.tick x false 0x00] })).getD s

/-- A build with a short preamble and small FIFOs, for one-step tests. -/
def smallBuild : Build := { Build.default with txFifoBits := 4, rxFifoBits := 4, carrierBits := 2 }

/-- The reset state of the small build. -/
def small : State := State.resetOf smallBuild

/-- A FIFO that holds the bytes 0x13 and 0x41, as in V3.6. -/
def twoBytes : Fifo := { buf := [(0, 0x13), (1, 0x41)], inIdx := 2, outIdx := 0 }

/-- A FIFO of capacity 16 that is full. -/
def fullFifo : Fifo := { buf := [], inIdx := 15, outIdx := 0 }

/-- V3.5, and V4 for the illegal form. -/
theorem test_nop : response 0x0000 { small with rsp := 0x1234 } = 0x0000 ∧ response 0x0001 small = 0x8000 := by decide

/-- V3.5: the response and the length. -/
theorem test_txpush : response 0x0141 small = 0x0100 ∧ (afterWord 0x0141 small).txLen = 1 := by decide

/-- V3.7: a full FIFO refuses. -/
theorem test_txpush_full : response 0x0110 { small with txf := fullFifo } = 0x0000 := by decide

/-- V3.6. -/
theorem test_rxpop :
    response 0x0200 { small with rxf := twoBytes } = 0x0113 ∧
      (afterWord 0x0200 { small with rxf := twoBytes }).rxf.contents 4 = [0x41] := by decide

/-- V3.6: peeking leaves the bytes in place. -/
theorem test_rxpeek :
    response 0x0300 { small with rxf := twoBytes } = 0x0113 ∧
      (afterWord 0x0300 { small with rxf := twoBytes }).rxf = twoBytes := by decide

/-- V3.7. -/
theorem test_fifolen :
    response 0x0400 { small with txf := fullFifo } = 0x010F ∧ response 0x0401 { small with rxf := twoBytes } = 0x0002 := by
  decide

/-- V3.5: `FIFOCLR TX` leaves the other FIFO alone. -/
theorem test_fifoclr :
    (afterWord 0x0501 { small with txf := twoBytes, rxf := twoBytes }).txLen = 0 ∧
      (afterWord 0x0501 { small with txf := twoBytes, rxf := twoBytes }).rxf = twoBytes := by decide

/-- V9.2. -/
theorem test_setprofile :
    (afterWord 0x1001 small).phaseStep false = 8055 ∧ (afterWord 0x1001 small).phaseStep true = 6690 ∧
      (afterWord 0x1001 small).queuelen = 7 ∧ response 0x1502 (afterWord 0x1001 small) = 0x0001 := by decide

/-- V9.2: `SETDIR ORIG, REV`. -/
theorem test_setdir :
    (afterWord 0x1102 small).phaseStep true = 15189 ∧ (afterWord 0x1102 small).queuelen = 14 ∧
      response 0x1502 (afterWord 0x1102 small) = 0x000C := by decide

/-- V9.3: the effects of `Reconfigure`. -/
theorem test_setdir_reconfigures :
    (afterWord 0x1101 { small with txf := twoBytes, txCarrierOn := true, dl := [(3, 0x10), (15, 0x20)] }).txLen = 0 ∧
      (afterWord 0x1101 { small with txf := twoBytes, txCarrierOn := true }).txCarrierOn = false ∧
      (afterWord 0x1101 { small with dl := [(3, 0x10), (15, 0x20)] }).dl = [(15, 0x20)] := by decide

/-- V5.3: the forced carrier sounds although TX is idle, and the state stays WAIT. -/
theorem test_settxcar :
    (afterSample 0x80 (afterWord 0x1201 small)).txSample = 130 ∧
      (afterSample 0x80 (afterSample 0x80 (afterWord 0x1201 small))).txSample = 221 ∧
      (afterSample 0x80 (afterWord 0x1201 small)).txState = .wait := by decide

/-- V9.5: `LISTEN` from reset. -/
theorem test_setrxcar :
    response 0x1301 small = 0x0000 ∧ (afterWord 0x1301 small).rxState = .carrier ∧
      (afterWord 0x1301 small).waitCnt = 480000 := by decide

/-- V8.4: immediate acquisition. -/
theorem test_setrxcar_immediate :
    response 0x1301 { small with cfgWaitSeconds := 0 } = 0x0100 ∧
      (afterWord 0x1301 { small with cfgWaitSeconds := 0 }).lossCnt = 13440 := by decide

/-- P6. -/
theorem test_acknc :
    response 0x1400 { small with rxState := .noCarrier } = 0x0100 ∧
      (afterWord 0x1400 { small with rxState := .noCarrier }).rxState = .nop ∧ response 0x1400 small = 0x0000 := by decide

/-- V9.1. -/
theorem test_status :
    response 0x1500 State.reset = 0x0007 ∧ response 0x1501 State.reset = 0x0028 ∧
      response 0x1502 State.reset = 0x0000 ∧ response 0x1503 State.reset = 0x8000 := by decide

/-- V8.1: the constant follows the register. -/
theorem test_setcdt :
    (afterWord 0x2000 small).cdTotal = 1 ∧ (afterWord 0x2001 small).cdTotal = 900 ∧
      (afterWord 0x20FF small).cdTotal = 229500 := by decide

/-- V8.1. -/
theorem test_setloss : (afterWord 0x210A small).lossSamples = 9600 ∧ (afterWord 0x210A small).lossCnt = 0 := by decide

/-- V8.1. -/
theorem test_setwait : (afterWord 0x22FF small).waitSamples = 2448000 := by decide

/-- V9.6. -/
theorem test_setopt :
    response 0x2403 (afterWord 0x2301 small) = 0x0001 ∧ response 0x2403 (afterWord 0x2302 small) = 0x0002 := by decide

/-- V9.1. -/
theorem test_cfgrd :
    response 0x2400 small = 0x0006 ∧ response 0x2401 small = 0x000E ∧ response 0x2402 small = 0x0032 ∧
      response 0x2403 small = 0x0002 := by decide

/-- V10.2 and V10.3. -/
theorem test_dial :
    response 0x3001 small = 0x0100 ∧ response 0x3001 { small with txState := .preamble, txActive := true } = 0x0000 ∧
      response 0x3000 { small with dialMode := true } = 0x0100 ∧ response 0x3000 small = 0x0000 := by decide

/-- V5.1: the first TICK after reset. -/
theorem test_tick_first :
    (afterSample 0x80 small).txSample = 0x80 ∧ (afterSample 0x80 small).txCnt = 1 ∧
      (afterSample 0x80 small).rxHist = 0x00 ∧ (afterSample 0x80 small).rxState = .nop := by decide

/-- V6.2, TICK 10: from the filter cells of TICK 9 and a delay line of 0xFF samples. -/
theorem test_tick_signal_chain :
    (afterSample 0x00 { small with iirX1 := 4032, iirY1 := 4032, rxHist := 0x01, dl := [(0, 0xFF)] }).iirX1.toInt = -4064 ∧
      (afterSample 0x00 { small with iirX1 := 4032, iirY1 := 4032, rxHist := 0x01, dl := [(0, 0xFF)] }).iirY1.toInt = 1984 ∧
      (afterSample 0x00 { small with iirX1 := 4032, iirY1 := 4032, rxHist := 0x01, dl := [(0, 0xFF)] }).rxHist = 0x03 := by
  decide

/-- The worked products of rule R214. -/
theorem test_products :
    (correlate 2 127 127).toInt = 4032 ∧ (correlate 2 (-128) (-128)).toInt = 4096 ∧
      (correlate 2 (-128) 127).toInt = -4064 ∧ (correlate 2 (-1) 1).toInt = -1 ∧ (correlate 2 3 (-1)).toInt = -1 := by
  decide

/-- V2.2 and V2.3: the accumulator, and its wrap. -/
theorem test_phase :
    (State.nextPhase { small with txActive := true, txPhase := 8670 }) = 17340 ∧
      (State.nextPhase { small with txActive := true, cfgDir := 1, txPhase := 0xF000 }) = 0x2B55 := by decide

/-- V5.5, TICKs 32 and 96: the symbol ticks that take the byte and that end a preamble of two. -/
theorem test_symbol_ticks :
    (afterSample 0x80 { small with txf := twoBytes, txCnt := 31 }).txState = .preamble ∧
      (afterSample 0x80 { small with txf := twoBytes, txCnt := 31 }).txByte = 0x13 ∧
      (afterSample 0x80 { small with txState := .preamble, txActive := true, txBits := 1, txCnt := 31 }).txState =
        .startBit ∧
      (afterSample 0x80 { small with txState := .preamble, txActive := true, txBits := 1, txCnt := 31 }).txSym = false := by
  decide

/-- P5, TICKs 1 and 10: a character to the generator, and the end of dialling. -/
theorem test_dial_ticks :
    (afterSample 0x80 { small with dialMode := true, txf := twoBytes }).dtmfSend = some 0x13 ∧
      (afterSample 0x80 { small with dialMode := true }).dialMode = false := by decide

/-- V7.2: the thresholds of STOP at `SPB` = 32, eight HIGH decisions and nine. -/
theorem test_stop_threshold :
    (rxFrame false { small with rxState := .stopBit, rxCnt := 15, rxBitsum := 8, rxByte := 0x41 }).rxf.contents 4 = [] ∧
      (rxFrame false { small with rxState := .stopBit, rxCnt := 15, rxBitsum := 9, rxByte := 0x41 }).rxf.contents 4 =
        [0x41] := by decide

/-- V7.5: the loss timer. -/
theorem test_loss_timer :
    (rxFrame true { small with rxState := .wait, carrierLocked := true, rxHist := 0x7F, lossCnt := 2 }).lossCnt = 1 ∧
      (rxFrame true { small with rxState := .wait, carrierLocked := true, rxHist := 0x7F, lossCnt := 1 }).rxState =
        .noCarrier := by decide

/-- A placed operation is the first one that a step runs. -/
theorem test_withFetchWord :
    (nextState (step (State.reset.withFetchWord 16 0x1502))).map (fun t => t.rsp) = some 0x0000 ∧
      (nextState (step (State.reset.withFetchWord 8 0x80))).map (fun t => t.txCnt) = some 1 := by decide

/-! Witnesses: for every obligation with hypotheses, a state and operands that meet them, clause by clause. -/

theorem witness_DecodeOfEncodeIsIdentity : (Instr.status 2).wellFormed = true ∧ (Instr.tick 0xFF).wellFormed = true := by
  decide

theorem witness_DecodedWordsReencode :
    decode (.command 0x1502) = .instr (.status 2) ∧ decode (.sample 0xFF) = .instr (.tick 0xFF) := by decide

/-- The two parts of a word as numbers, and the ends of the ranges: unused opcodes, a reserved bit just above an operand
field, the largest legal operand, and the reserved page. -/
theorem witness_EveryCommandWordHasItsVerdict :
    (opOf 0xFFFF = 0xFF ∧ opOf 0x0402 = 0x04 ∧ immOf 0x0402 = 2 ∧ opOf 0x1502 = 0x15 ∧ immOf 0x1502 = 2) ∧
      (unusedOp 0x06 ∧ unusedOp 0x0F ∧ unusedOp 0x16 ∧ unusedOp 0x1F ∧ unusedOp 0x25 ∧ unusedOp 0x2F ∧
        unusedOp 0x31 ∧ unusedOp 0xFF) ∧
      (¬ unusedOp 0x05 ∧ ¬ unusedOp 0x10 ∧ ¬ unusedOp 0x15 ∧ ¬ unusedOp 0x20 ∧ ¬ unusedOp 0x24 ∧ ¬ unusedOp 0x30) ∧
      (immSize 0x04 ≤ 2 ∧ 1 < immSize 0x04 ∧ immSize 0x15 ≤ 4 ∧ 2 < immSize 0x15 ∧ (0x1502 : Word) ≠ 0x1503) := by
  unfold unusedOp
  refine ⟨by decide, ⟨?_, ?_, ?_, ?_, ?_, ?_, ?_, ?_⟩, ⟨?_, ?_, ?_, ?_, ?_, ?_⟩, by decide⟩ <;> decide

theorem witness_StepRunsDecodedOperation :
    small.build.legal = true ∧ decode (.command 0x0141) = .instr (.txpush 0x41) ∧
      { small with input := [.command 0x0141] }.input = .command 0x0141 :: [] ∧
      decode (.sample 0x80) = .instr (.tick 0x80) ∧
      { small with input := [.tick 0x80 true 0x55, .reset] }.input = .tick 0x80 true 0x55 :: [.reset] := by decide

theorem witness_IllegalWordIsAnsweredAndIgnored :
    small.build.legal = true ∧ { small with input := [.command 0x1503] }.input = .command 0x1503 :: [] ∧
      decodeCommand 0x1503 = .rejected .reservedPage := by decide

theorem witness_IdleAndResetSteps :
    small.build.legal = true ∧ small.input = [] ∧
      { small with input := [.reset, .command 0] }.input = .reset :: [.command 0] := by decide

/-- A build at the lowest legal `SAMPLE_RATE` with a symbol rate of 300, one below it, and the default. -/
theorem witness_StepCompletesExactlyOnLegalBuilds :
    ¬ buildInRange { Build.default with sampleRate := 1199 } ∧ ¬ buildInRange { Build.default with carrierBits := 0 } ∧
      buildInRange { Build.default with carrierBits := 1 } ∧ buildInRange Build.default := by
  unfold buildInRange profileInRange toneSetInRange
  refine ⟨?_, ?_, ?_, ?_⟩ <;> decide

theorem witness_ResetMeetsTheInvariants : Build.default.legal = true ∧ smallBuild.legal = true := by decide

theorem witness_StepForRoundsHalfUp :
    (1200 ≤ 1200 ∧ 1200 ≤ 65535 ∧ 599 < 1200 / 2) ∧ (1200 ≤ 65535 ∧ 65535 ≤ 65535 ∧ 32766 < 65535 / 2) := by decide

theorem witness_TimerConstantsFitTheirCounters : State.reset.build.legal = true := by decide

theorem witness_FifoLengthBounds : 1 ≤ 1 ∧ 1 ≤ 8 ∧ 8 ≤ 8 := by decide

theorem witness_FifoPushAppends :
    fullFifo.wf 4 = true ∧ fullFifo.isFull 4 = true ∧ twoBytes.wf 4 = true ∧ twoBytes.isFull 4 = false ∧
      (Fifo.reset.push 1 7).wf 1 = true ∧ (Fifo.reset.push 1 7).isFull 1 = true := by decide

theorem witness_FifoPopRemovesOldest :
    Fifo.reset.wf 4 = true ∧ Fifo.reset.contents 4 = [] ∧ twoBytes.wf 4 = true ∧
      twoBytes.contents 4 = 0x13 :: [0x41] := by decide

theorem witness_FifoHoldsCapacityLessOne :
    Fifo.reset.wf 1 = true ∧ Fifo.reset.isEmpty 1 = true ∧ [7].length = 2 ^ 1 - 1 ∧ Fifo.reset.wf 8 = true ∧
      [7].length ≤ 2 ^ 8 - 1 := by decide

theorem witness_ReadingCommandsAreIdempotent :
    readingCommand .nop ∧ readingCommand .rxpeek ∧ readingCommand (.fifolen .rx) ∧ readingCommand (.status 3) ∧
      readingCommand (.cfgrd .opt) := ⟨trivial, trivial, trivial, trivial, trivial⟩

theorem witness_TxpushStoresItsByteOrReportsFull :
    small.build.legal = true ∧ small.txf.wf 4 = true ∧ small.txFull = false ∧
      { small with txf := fullFifo }.txf.wf 4 = true ∧ { small with txf := fullFifo }.txFull = true := by decide

theorem witness_RxpopReturnsTheOldestByte :
    small.build.legal = true ∧ small.rxf.contents 4 = [] ∧
      { small with rxf := twoBytes }.rxf.contents 4 = 0x13 :: [0x41] := by decide

theorem witness_RxpeekAndFifolenReport :
    small.build.legal = true ∧ small.rxf.contents 4 = [] ∧
      { small with rxf := twoBytes }.rxf.contents 4 = 0x13 :: [0x41] := by decide

theorem witness_SetprofileSelectsAndReconfigures :
    memWf dlFill { small with dl := [(3, 0x10), (15, 0x20)] }.build.maxQueuelen
      { small with dl := [(3, 0x10), (15, 0x20)] }.dl = true := by decide

theorem witness_SetdirSelectsAndReconfigures : memWf dlFill small.build.maxQueuelen small.dl = true := by decide

theorem witness_SetdirIsIdempotent : memWf dlFill State.reset.build.maxQueuelen State.reset.dl = true := by decide

theorem witness_SetrxcarStartsOrStopsTheReceiver :
    { small with cfgWaitSeconds := 0 }.cfgWaitSeconds = 0 ∧ { small with cfgOpt := 0b01 }.cfgOpt.getLsbD 0 = true ∧
      small.cfgWaitSeconds ≠ 0 ∧ small.cfgOpt.getLsbD 0 = false := by decide

theorem witness_AckncAcknowledgesACarrierLoss :
    { small with rxState := .noCarrier }.rxState = .noCarrier ∧ small.rxState ≠ .noCarrier := by decide

theorem witness_DialEntersAndLeavesDialMode :
    { small with dialMode := true }.dialMode = true ∧
      (small.dialMode = false ∧ small.txState = .wait ∧ small.txActive = false) ∧
      ({ small with txState := .trail, txActive := true }.dialMode = false ∧
        { small with txState := .trail, txActive := true }.txState ≠ .unused6 ∧
        { small with txState := .trail, txActive := true }.txState ≠ .unused7 ∧
        { small with txState := .trail, txActive := true }.txState ≠ .wait) := by decide

/-- The last TICK but one of a symbol period, and the last. -/
theorem witness_TickInsideASymbolPeriod :
    midPeriod { small with txCnt := 30 } ∧ ¬ midPeriod { small with txCnt := 31 } := by unfold midPeriod; decide

/-- An active transmitter at its symbol tick, in a state and with a FIFO and a count of one's choice. -/
def atSymbol (q : TxState) (f : Fifo) (bits : BitVec 8) : State :=
  { small with txState := q, txActive := true, txf := f, txBits := bits, txCnt := 31 }

theorem witness_TxFifoSymbolTicks :
    symbolTick (atSymbol .trail Fifo.reset 1) ∧ smallBuild.legal = true ∧
      (atSymbol .wait Fifo.reset 0).txState = .wait ∧ (atSymbol .wait Fifo.reset 0).txf.contents 4 = [] ∧
      (atSymbol .wait twoBytes 0).txf.contents 4 = 0x13 :: [0x41] ∧
      (atSymbol .stopBit Fifo.reset 8).txState = .stopBit ∧ (atSymbol .stopBit twoBytes 8).txState = .stopBit ∧
      (atSymbol .trail Fifo.reset 0).txBits.toNat + 1 < smallBuild.carrierBits ∧
      smallBuild.carrierBits ≤ (atSymbol .trail Fifo.reset 1).txBits.toNat + 1 ∧
      (atSymbol .trail Fifo.reset 1).txCarrierOn = false ∧
      { atSymbol .trail Fifo.reset 2 with txCarrierOn := true }.txCarrierOn = true := by unfold symbolTick; decide

theorem witness_TxPreambleStartAndDataSymbolTicks :
    symbolTick (atSymbol .preamble Fifo.reset 1) ∧ (atSymbol .preamble Fifo.reset 1).txBits.toNat < 255 ∧
      symbolTick (atSymbol .startBit Fifo.reset 2) ∧ (atSymbol .startBit Fifo.reset 2).txState = .startBit ∧
      symbolTick (atSymbol .dataBit Fifo.reset 8) ∧ (atSymbol .dataBit Fifo.reset 8).profile.dataBits ≤ 8 ∧
      (atSymbol .dataBit Fifo.reset 7).txBits.toNat < (atSymbol .dataBit Fifo.reset 7).profile.dataBits := by
  unfold symbolTick; decide

/-- A build of the smallest symbol period, one data bit and one preamble symbol. -/
def tinyBuild : Build :=
  { Build.default with sampleRate := 1200, carrierBits := 1, profile0 := tinyProfile, profile1 := tinyProfile }
where
  tinyTones : ToneSet := { spaceHz := 200, markHz := 400, queuelen := 2, polarity := false }
  tinyProfile : Profile :=
    { originating := tinyTones, answering := tinyTones, baud := 300, dataBits := 1, duplex := true }

/-- An idle transmitter of the tiny build with one byte waiting. -/
def tinySender : State :=
  { State.resetOf tinyBuild with txf := { buf := [(0, 0x01)], inIdx := 1, outIdx := 0 } }

/-- A listening receiver of the tiny build: locked, with its loss timer running. -/
def tinyListener : State :=
  { State.resetOf tinyBuild with rxState := .wait, carrierLocked := true, lossCnt := 12, rxHist := 0x01 }

theorem witness_TransmissionSendsTheFrame :
    readyToSend tinySender 0x01 ∧
      (frameSymbols tinySender.build.carrierBits tinySender.dataBits 0x01).length = 5 ∧
      (List.replicate 20 (0x80 : Byte)).length = (4 + 1) * tinySender.spb ∧
      (List.replicate 24 (0x80 : Byte)).length = (5 + 1) * tinySender.spb := by unfold readyToSend; decide

theorem witness_DialModeTick :
    small.build.legal = true ∧ { small with dialMode := true }.dialMode = true ∧
      { small with dialMode := true, dtmfActive := true }.dtmfActive = true ∧
      { small with dialMode := true, txf := twoBytes }.dtmfActive = false ∧
      { small with dialMode := true, txf := twoBytes }.txf.contents 4 = 0x13 :: [0x41] ∧
      { small with dialMode := true }.txf.contents 4 = [] := by decide

theorem reset_iirInv : State.reset.IirInv := ⟨by decide, by decide, by decide, by decide⟩

/-- The filter cells at the ends of their ranges. -/
theorem extreme_iirInv : State.IirInv { State.reset with iirX0 := 4096, iirX1 := -4064, iirY0 := 16384, iirY1 := -16256 } :=
  ⟨by decide, by decide, by decide, by decide⟩

theorem reset_memInv : State.reset.MemInv := ⟨by decide, by decide, by decide⟩

theorem witness_SignalChainIsExact : State.reset.build.legal = true ∧ State.reset.IirInv := ⟨by decide, reset_iirInv⟩

theorem witness_DelayLineHoldsTheLastSamples :
    State.reset.build.legal = true ∧ State.reset.MemInv ∧ [1, 2, 3, 4, 5, 6, 7, 8].length = State.reset.queuelen ∧
      7 < State.reset.queuelen := ⟨by decide, reset_memInv, by decide, by decide⟩

/-- A receiver in a framing state with a window of one's choice. -/
def inWindow (q : RxState) (cnt sum : BitVec 8) : State := { small with rxState := q, rxCnt := cnt, rxBitsum := sum }

/-- The last decision of each start window, with the sum at its threshold. -/
theorem witness_RxStartWindows :
    ((inWindow .preamble 15 4).rxCnt.toNat < 255 ∧ (inWindow .preamble 15 4).rxBitsum.toNat < 255 ∧
      (inWindow .preamble 15 4).rxState = .preamble) ∧
      ((inWindow .startBit 31 8).rxCnt.toNat < 255 ∧ (inWindow .startBit 31 8).rxBitsum.toNat < 255 ∧
        (inWindow .startBit 31 8).rxState = .startBit) := by decide

theorem witness_RxDataAndStopWindows :
    ((inWindow .dataBit 31 16).rxCnt.toNat < 255 ∧ (inWindow .dataBit 31 16).rxBitsum.toNat < 255 ∧
      { inWindow .dataBit 31 16 with rxBits := 7 }.rxBits.toNat < 8 ∧ (inWindow .dataBit 31 16).rxState = .dataBit) ∧
      ((inWindow .stopBit 15 8).rxCnt.toNat < 255 ∧ (inWindow .stopBit 15 8).rxBitsum.toNat < 255 ∧
        { inWindow .stopBit 15 8 with rxBits := 8 }.rxState = .stopBit ∧
        (inWindow .stopBit 15 8).rxState = .stopBit) := by decide

/-- A locked receiver in WAIT whose loss timer is about to expire, and one that the history saves. -/
theorem witness_RxWaitTick :
    ({ small with rxState := .wait, carrierLocked := true, lossCnt := 1 }.rxState = .wait ∧
      { small with rxState := .wait, carrierLocked := true, lossCnt := 1 }.carrierLocked = true ∧
      { small with rxState := .wait, carrierLocked := true, lossCnt := 1 }.dcdFollows = true ∧
      (afterSample 0x80 { small with rxState := .wait, carrierLocked := true, lossCnt := 1 }).rxHist ≠ 0xFF ∧
      { small with rxState := .wait, carrierLocked := true, lossCnt := 1 }.lossCnt.toNat ≤ 1) ∧
      { small with rxState := .wait, carrierLocked := true, lossCnt := 2 }.rxState = .wait ∧
      ¬ { small with rxState := .wait, carrierLocked := true, lossCnt := 2 }.lossCnt.toNat ≤ 1 := by decide

/-- A receiver in CARRIER on a silent line, whose decisions are LOW, and one on the last HIGH decision of its streak. -/
theorem witness_CarrierTick :
    ({ small with rxState := .carrier, cfgCdTenths := 0, iirY1 := 100, waitCnt := 2 }.rxState = .carrier ∧
      newest (afterSample 0x80 { small with rxState := .carrier, cfgCdTenths := 0, iirY1 := 100, waitCnt := 2 }) = true ∧
      State.cdTotal { small with cfgCdTenths := 0 } ≤ streakAfter true { small with cfgCdTenths := 0 }) ∧
      newest (afterSample 0x80 { small with rxState := .carrier, waitCnt := 1 }) = false ∧
      streakAfter false { small with rxState := .carrier, waitCnt := 1 } <
        State.cdTotal { small with rxState := .carrier, waitCnt := 1 } ∧
      { small with rxState := .carrier, waitCnt := 1 }.waitCnt.toNat ≤ 1 ∧
      1 < { small with rxState := .carrier, waitCnt := 2 }.waitCnt.toNat := by decide

theorem witness_CarrierLockBoundary :
    State.reset.build.legal = true ∧ State.reset.cfgWaitSeconds ≠ 0 ∧ State.reset.cfgOpt.getLsbD 0 = false ∧
      State.reset.cdTotal < State.reset.waitSamples := by decide

theorem witness_AcquisitionEnds :
    { small with rxState := .carrier, waitCnt := 1 }.rxState = .carrier ∧
      1 ≤ { small with rxState := .carrier, waitCnt := 1 }.waitCnt.toNat ∧
      [(0x80 : Byte)].length = { small with rxState := .carrier, waitCnt := 1 }.waitCnt.toNat := by decide

theorem witness_NoEdgeNoByte :
    { small with rxState := .wait, rxHist := 0xFE }.rxState = .wait ∧
      { small with rxState := .wait, rxHist := 0xFE }.rxHist.getLsbD 0 = false ∧
      ({ small with rxState := .wait, rxHist := 0xFF }.rxHist.getLsbD 0 = false ∨ 0 = 0) := by decide

/-- With the loss timer at the least it may hold, and with `DCD_FOLLOWS` off. -/
theorem witness_IdealFrameIsReceived :
    listening tinyListener ∧ lossTimeLeft 2 0 { tinyListener with lossCnt := 2 } ∧
      lossTimeLeft 2 0 { tinyListener with cfgOpt := 0, lossCnt := 0 } := by
  unfold listening lossTimeLeft; decide

theorem witness_TransmittedByteIsReceived :
    readyToSend tinySender 0x01 ∧ listening tinyListener ∧ lossTimeLeft 12 6 tinyListener ∧
      tinyListener.spb = tinySender.spb ∧
      tinyListener.dataBits = tinySender.dataBits ∧
      5 = (frameSymbols tinySender.build.carrierBits tinySender.dataBits 0x01).length ∧
      (List.replicate 20 (0x80 : Byte)).length = 5 * tinySender.spb := by
  unfold readyToSend listening lossTimeLeft; decide

/-- The frame of a TICK, at the boundary of the live delay-line entries. -/
theorem witness_TickFrame :
    (∃ t, exec (.tick 0x80) small = .next t) ∧ small.dialMode = false ∧ 1 ≠ small.rxf.inPos 4 ∧
      small.queuelen ≤ 8 ∧ 1 ≤ small.queuelen := ⟨⟨_, rfl⟩, by decide⟩

theorem witness_HostCommandFrame :
    (∀ x, Instr.acknc ≠ .tick x) ∧ (∃ t, exec .acknc small = .next t) ∧ (∀ b, Instr.acknc ≠ .txpush b) ∧
      (∀ p, Instr.acknc ≠ .setprofile p) ∧ (∀ a r, Instr.acknc ≠ .setdir a r) :=
  ⟨(fun _ h => by cases h), ⟨_, rfl⟩, (fun _ h => by cases h), (fun _ h => by cases h), (fun _ _ h => by cases h)⟩

/-- Two states that differ in the transmitter alone, with a TICK each; and one state with two samples. -/
theorem witness_ReceiverAndTransmitterAreIndependent :
    small.build = (atSymbol .trail twoBytes 1).build ∧ small.controlView = (atSymbol .trail twoBytes 1).controlView ∧
      small.chainView = (atSymbol .trail twoBytes 1).chainView ∧
      small.framerView = (atSymbol .trail twoBytes 1).framerView ∧
      (∃ t, exec (.tick 0x80) small = .next t) ∧ (∃ t, exec (.tick 0x80) (atSymbol .trail twoBytes 1) = .next t) ∧
      (∃ t, exec (.tick 0x81) small = .next t) := ⟨rfl, rfl, rfl, rfl, ⟨_, rfl⟩, ⟨_, rfl⟩, ⟨_, rfl⟩⟩

/-- `LISTEN` leaves NOP, and `ACKNC` leaves NO_CARRIER. -/
theorem witness_StoppedReceiverWaitsForTheHost :
    (∃ t, exec (.setrxcar true) small = .next t ∧ small.rxState = .nop ∧ t.rxState ≠ .nop) ∧
      (∃ t, exec .acknc { small with rxState := .noCarrier } = .next t ∧ t.rxState ≠ .noCarrier) ∧
      (∃ t, exec (.tick 0x80) small = .next t) :=
  ⟨⟨_, rfl, by decide, by decide⟩, ⟨_, rfl, by decide⟩, ⟨_, rfl⟩⟩

/-- One TICK for each of the five events that a TICK can meet. -/
theorem witness_TickEventsAreRecorded :
    (∃ t, exec (.tick 0x80) small = .next t) ∧
      tickEvent 0x80 { small with rxState := .carrier, waitCnt := 1 } = some .acqTimeout ∧
      tickEvent 0x80 { small with rxState := .wait, carrierLocked := true, lossCnt := 1 } = some .carrierLoss ∧
      tickEvent 0x80 (inWindow .preamble 15 5) = some .framingReject ∧
      tickEvent 0x80 (inWindow .stopBit 15 8) = some .stopFail ∧
      tickEvent 0x80 { inWindow .stopBit 15 9 with rxf := fullFifo } = some .rxOverflow := ⟨⟨_, rfl⟩, by decide⟩

/-! The invariants hold at reset, and reset can take a step. -/

theorem reset_txInv : State.reset.TxInv := ⟨by decide, by decide, by decide, by decide, by decide⟩

theorem reset_rxInv : State.reset.RxInv :=
  ⟨by decide, by decide, by decide, by decide, by decide, by decide, by decide⟩

theorem reset_carrierInv : State.reset.CarrierInv := ⟨by decide, by decide, by decide⟩

theorem reset_inv : State.reset.Inv :=
  ⟨by decide, reset_memInv, reset_txInv, reset_rxInv, reset_carrierInv, reset_iirInv⟩

theorem witness_StepKeepsTheMemories :
    State.reset.MemInv ∧ ∃ t, step { State.reset with input := [.command 0x0141] } = .next t :=
  ⟨reset_memInv, _, rfl⟩

theorem witness_StepKeepsTheTransmitterRanges :
    State.reset.TxInv ∧ ∃ t, step { State.reset with input := [.tick 0x80 false 0] } = .next t :=
  ⟨reset_txInv, _, rfl⟩

theorem witness_StepKeepsTheReceiverRanges :
    State.reset.RxInv ∧ ∃ t, step { State.reset with input := [.tick 0x80 false 0] } = .next t :=
  ⟨reset_rxInv, _, rfl⟩

theorem witness_StepKeepsTheCarrierRelations :
    State.reset.CarrierInv ∧ ∃ t, step { State.reset with input := [.command 0x1301] } = .next t :=
  ⟨reset_carrierInv, _, rfl⟩

theorem witness_StepKeepsTheFilterRanges :
    State.reset.IirInv ∧ ∃ t, step { State.reset with input := [.tick 0x80 false 0] } = .next t :=
  ⟨reset_iirInv, _, rfl⟩

end Sys2Proof.Tests
end

section
/-! The scope statements: which builds a step refuses, that every operation completes, and what `SETPROFILE` leaves
(00_scope.md rules R8 to R10 and R19). -/

namespace Sys2Proof.Machine

/-! The build check as the ranges of rules R8 and R9. -/

theorem toneSet_legal_iff (b : Build) (t : ToneSet) :
    t.legal b.sampleRate b.maxQueuelen = true ↔ toneSetInRange b t := by
  simp only [ToneSet.legal, toneSetInRange, Bool.and_eq_true, decide_eq_true_eq, within_iff, and_assoc]

theorem profile_legal_iff (b : Build) (p : Profile) :
    p.legal b.sampleRate b.maxQueuelen = true ↔ profileInRange b p := by
  simp only [Profile.legal, profileInRange, Bool.and_eq_true, toneSet_legal_iff, within_iff, and_assoc]

theorem build_legal_iff (b : Build) : b.legal = true ↔ buildInRange b := by
  simp only [Build.legal, buildInRange, Bool.and_eq_true, profile_legal_iff, within_iff, and_assoc]

/-! Completion. The five operations below branch; each branch answers. -/

theorem execFifolen_completes (f : FifoSel) (s : State) : ∃ t, execFifolen f s = .next t := by
  cases f with
  | tx => exact ⟨_, rfl⟩
  | rx => exact ⟨_, rfl⟩

theorem execSetrxcar_completes (v : Bool) (s : State) : ∃ t, execSetrxcar v s = .next t := by
  cases v with
  | false => exact ⟨_, rfl⟩
  | true => exact ⟨_, rfl⟩

theorem execAcknc_completes (s : State) : ∃ t, execAcknc s = .next t := by
  unfold execAcknc
  split <;> exact ⟨_, rfl⟩

theorem execStatus_completes (g : BitVec 2) (s : State) : ∃ t, execStatus g s = .next t := by
  unfold execStatus
  split <;> exact ⟨_, rfl⟩

theorem execDial_completes (v : Bool) (s : State) : ∃ t, execDial v s = .next t := by
  cases v with
  | false => exact ⟨_, rfl⟩
  | true =>
    simp only [execDial, if_true]
    split
    · exact ⟨_, rfl⟩
    · split <;> exact ⟨_, rfl⟩

/-- No operation faults, traps or is refused, whatever the state (rules R19, R113 and R310). -/
theorem exec_completes (i : Instr) (s : State) : ∃ t, exec i s = .next t := by
  cases i with
  | fifolen f => exact execFifolen_completes f s
  | setrxcar v => exact execSetrxcar_completes v s
  | acknc => exact execAcknc_completes s
  | status g => exact execStatus_completes g s
  | dial v => exact execDial_completes v s
  | _ => exact ⟨_, rfl⟩

theorem step_of_not_legal {s : State} (h : ¬ s.build.legal = true) : step s = .refused .illegalBuild := by
  unfold step takeOp
  rw [if_neg h]

theorem step_completes {s : State} (h : s.build.legal = true) : ∃ t, step s = .next t := by
  unfold step
  rcases takeOp_cases h with hT | ⟨rest, a, d, hT⟩ | ⟨r, rest, a, d, hT⟩ | ⟨i, rest, a, d, hT⟩ <;> rw [hT]
  · exact ⟨s, rfl⟩
  · exact ⟨_, rfl⟩
  · exact ⟨_, rfl⟩
  · exact exec_completes i (s.withPorts rest a d)

/-- Settles O10: every arm of `exec` answers, the branching ones on each branch. -/
theorem everyOperationCompletes : Obligations.EveryOperationCompletes := exec_completes

/-- Settles O9: the build check is the ranges, an illegal build is refused before any operation is taken, and whatever a
legal build's ports give completes. -/
theorem stepCompletesExactlyOnLegalBuilds : Obligations.StepCompletesExactlyOnLegalBuilds := by
  intro s
  have hlegal : s.build.legal = true ↔ buildInRange s.build := build_legal_iff s.build
  refine ⟨hlegal, fun hout => ?_, fun hin => ?_⟩
  · exact step_of_not_legal (mt hlegal.mp hout)
  · exact step_completes (hlegal.mpr hin)

/-! `SETPROFILE`. -/

/-- `Reconfigure` and the answer 0x0000, on a canonical delay line, leave what rule R266 says of the state they find. -/
theorem reconfiguredFrom_reconfigure_respond {s : State} (h : memWf dlFill s.build.maxQueuelen s.dl = true) :
    reconfiguredFrom s (s.reconfigure.respond false false 0x00) :=
  ⟨rfl, rfl, rfl, fun _ hk => reconfigure_dlRead_live h hk, fun _ hk => reconfigure_dlRead_other hk⟩

/-- The row of `PROFILES` in force after `SETPROFILE p` (rules R23 and R46). -/
theorem profile_reconfigure_cfgProfile (p : BitVec 1) (s : State) (e f : Bool) (d : Byte) :
    ((State.reconfigure { s with cfgProfile := p }).respond e f d).profile = s.build.profile p := rfl

/-- Settles O25: the state left is `Reconfigure` of the state with `CFG_PROFILE` written, and `SPB` and `DATA_BITS` are
read off the profile that `CFG_PROFILE` selects. -/
theorem setprofileSelectsAndReconfigures : Obligations.SetprofileSelectsAndReconfigures := by
  intro p s hdl
  refine ⟨_, rfl, reconfiguredFrom_reconfigure_respond (s := { s with cfgProfile := p }) hdl, ?_, ?_, rfl, rfl⟩
  · rintro rfl
    exact profile_reconfigure_cfgProfile 0 s false false 0x00
  · rintro rfl
    exact profile_reconfigure_cfgProfile 1 s false false 0x00

end Sys2Proof.Machine
end

section
/-! What a host command can do, the step rule that every invariant is proved by, and the first of them: the memories
(10_state.md rule R44, 20_memory.md rules R61 and R70). -/

namespace Sys2Proof.Machine

/-! The effects of the host commands. -/

/-- What a host command can do to a state before it answers (42_fifo.md rules R150 to R155, 43_modulator.md rule R196,
45_line_control.md rules R270 to R280). -/
inductive HostEffect (s : State) : State → Prop
  | nothing : HostEffect s s
  | registers (cd loss wait : BitVec 8) (opt : BitVec 2) (carrierOn dial : Bool) :
      HostEffect s { s with cfgCdTenths := cd, cfgLossTenths := loss, cfgWaitSeconds := wait, cfgOpt := opt,
                            txCarrierOn := carrierOn, dialMode := dial }
  | push (b : Byte) : HostEffect s { s with txf := s.txf.push s.build.txFifoBits b }
  | pop : HostEffect s { s with rxf := s.rxf.pop s.build.rxFifoBits }
  | clear (t r : Bool) :
      HostEffect s { s with txf := if t then s.txf.clear else s.txf, rxf := if r then s.rxf.clear else s.rxf }
  | reconfigure (p : BitVec 1) (d : BitVec 2) :
      HostEffect s (State.reconfigure { s with cfgProfile := p, cfgDir := d })
  | acquire : HostEffect s s.acquire
  | stop : HostEffect s { s with rxState := .nop, carrierLocked := false, acqFailed := false }
  | acknowledge (h : s.rxState = .noCarrier) : HostEffect s { s with rxState := .nop }

theorem execFifolen_answers (f : FifoSel) (s : State) : ∃ flag d, execFifolen f s = .next (s.respond false flag d) := by
  cases f with
  | tx => exact ⟨_, _, rfl⟩
  | rx => exact ⟨_, _, rfl⟩

theorem execStatus_answers (g : BitVec 2) (s : State) : ∃ err d, execStatus g s = .next (s.respond err false d) := by
  unfold execStatus
  split
  · exact ⟨true, 0x00, rfl⟩
  · exact ⟨false, _, rfl⟩

theorem execAcknc_effect (s : State) :
    ∃ u flag, HostEffect s u ∧ execAcknc s = .next (u.respond false flag 0x00) := by
  unfold execAcknc
  split
  · next h => exact ⟨_, _, .acknowledge h, rfl⟩
  · exact ⟨_, _, .nothing, rfl⟩

theorem execDial_effect (v : Bool) (s : State) :
    ∃ u flag, HostEffect s u ∧ execDial v s = .next (u.respond false flag 0x00) := by
  have writes (d : Bool) : HostEffect s { s with dialMode := d } :=
    .registers s.cfgCdTenths s.cfgLossTenths s.cfgWaitSeconds s.cfgOpt s.txCarrierOn d
  unfold execDial
  split
  · split
    · exact ⟨_, _, .nothing, rfl⟩
    · split
      · exact ⟨_, _, writes true, rfl⟩
      · exact ⟨_, _, .nothing, rfl⟩
  · exact ⟨_, _, writes false, rfl⟩

/-- Every host command has one of the effects, and then answers. -/
theorem exec_hostEffect {i : Instr} (hi : ∀ x, i ≠ .tick x) (s : State) :
    ∃ u err flag d, HostEffect s u ∧ exec i s = .next (u.respond err flag d) := by
  cases i with
  | nop => exact ⟨_, _, _, _, .nothing, rfl⟩
  | txpush b => exact ⟨_, _, _, _, .push b, rfl⟩
  | rxpop => exact ⟨_, _, _, _, .pop, rfl⟩
  | rxpeek => exact ⟨_, _, _, _, .nothing, rfl⟩
  | fifolen f =>
    obtain ⟨flag, d, h⟩ := execFifolen_answers f s
    exact ⟨_, _, flag, d, .nothing, h⟩
  | fifoclr t r => exact ⟨_, _, _, _, .clear t r, rfl⟩
  | setprofile p => exact ⟨_, _, _, _, .reconfigure p s.cfgDir, rfl⟩
  | setdir a r => exact ⟨_, _, _, _, .reconfigure s.cfgProfile _, rfl⟩
  | settxcar v =>
    exact ⟨_, _, _, _, .registers s.cfgCdTenths s.cfgLossTenths s.cfgWaitSeconds s.cfgOpt v s.dialMode, rfl⟩
  | setrxcar v =>
    cases v with
    | false => exact ⟨_, _, _, _, .stop, rfl⟩
    | true => exact ⟨_, _, _, _, .acquire, rfl⟩
  | acknc =>
    obtain ⟨u, flag, hu, h⟩ := execAcknc_effect s
    exact ⟨u, _, flag, _, hu, h⟩
  | status g =>
    obtain ⟨err, d, h⟩ := execStatus_answers g s
    exact ⟨_, err, _, d, .nothing, h⟩
  | setcdt n =>
    exact ⟨_, _, _, _, .registers n s.cfgLossTenths s.cfgWaitSeconds s.cfgOpt s.txCarrierOn s.dialMode, rfl⟩
  | setloss n =>
    exact ⟨_, _, _, _, .registers s.cfgCdTenths n s.cfgWaitSeconds s.cfgOpt s.txCarrierOn s.dialMode, rfl⟩
  | setwait n =>
    exact ⟨_, _, _, _, .registers s.cfgCdTenths s.cfgLossTenths n s.cfgOpt s.txCarrierOn s.dialMode, rfl⟩
  | setopt g u =>
    exact ⟨_, _, _, _, .registers s.cfgCdTenths s.cfgLossTenths s.cfgWaitSeconds _ s.txCarrierOn s.dialMode, rfl⟩
  | cfgrd k => exact ⟨_, _, _, _, .nothing, rfl⟩
  | dial v =>
    obtain ⟨u, flag, hu, h⟩ := execDial_effect v s
    exact ⟨u, _, flag, _, hu, h⟩
  | tick x => exact absurd rfl (hi x)

/-- `Acquire` writes the carrier detector and `RX_STATE` alone (rule R262). -/
theorem acquire_frame (s : State) :
    s.acquire = { s with rxState := s.acquire.rxState, carrierLocked := s.acquire.carrierLocked,
                         cdStreak := s.acquire.cdStreak, waitCnt := s.acquire.waitCnt, lossCnt := s.acquire.lossCnt,
                         acqFailed := s.acquire.acqFailed } := by
  unfold State.acquire
  split <;> rfl

/-- No effect writes the build (rule R8). -/
theorem HostEffect.build {s u : State} (h : HostEffect s u) : u.build = s.build := by
  cases h with
  | acquire => rw [acquire_frame]
  | _ => rfl

/-- No effect writes the TX engine but its FIFO (rules R71 and R266). -/
theorem HostEffect.txView {s u : State} (h : HostEffect s u) : u.txView = { s.txView with txf := u.txf } := by
  cases h with
  | acquire => rw [acquire_frame]; rfl
  | _ => rfl

/-! The step rule of an invariant. -/

/-- A predicate that holds after reset, reads neither the ports nor the response, and is kept by every effect of a host
command and by every TICK. -/
structure StepInvariant (P : State → Prop) : Prop where
  reset  : ∀ b : Build, b.legal = true → P (State.resetOf b)
  ports  : ∀ (s : State) (rest : List PortOp) (a : Bool) (d : Byte), P s → P (s.withPorts rest a d)
  answer : ∀ (s : State) (err flag : Bool) (d : Byte), P s → P (s.respond err flag d)
  host   : ∀ s u : State, s.build.legal = true → P s → HostEffect s u → P u
  tick   : ∀ (x : Byte) (s : State), s.build.legal = true → P s → P (s.afterTick x)

theorem StepInvariant.exec {P : State → Prop} (hP : StepInvariant P) {i : Instr} {s t : State}
    (hb : s.build.legal = true) (hs : P s) (h : exec i s = .next t) : P t := by
  by_cases hi : ∃ x, i = .tick x
  · obtain ⟨x, rfl⟩ := hi
    rw [exec_tick_inv h]
    exact hP.tick x s hb hs
  · obtain ⟨u, err, flag, d, hu, e⟩ := exec_hostEffect (fun x hx => hi ⟨x, hx⟩) s
    obtain rfl := Host.Outcome.next.inj (e.symm.trans h)
    exact hP.answer u err flag d (hP.host s u hb hs hu)

/-- Every step keeps such a predicate: waiting, reset, an illegal word, or an operation (rules R70, R312 and R341). -/
theorem StepInvariant.step {P : State → Prop} (hP : StepInvariant P) (s t : State) (hs : P s) (h : step s = .next t) :
    P t := by
  obtain ⟨hb, rfl | ⟨rest, a, d, rfl⟩ | ⟨rest, a, d, rfl⟩ | ⟨i, rest, a, d, he⟩⟩ := step_cases h
  · exact hs
  · exact hP.ports (State.resetOf s.build) rest a d (hP.reset _ hb)
  · exact hP.answer _ true false 0x00 (hP.ports s rest a d hs)
  · exact hP.exec (s := s.withPorts rest a d) hb (hP.ports s rest a d hs) he

/-! The memories. -/

theorem memInv_resetOf (b : Build) : (State.resetOf b).MemInv :=
  ⟨Fifo.wf_reset _, Fifo.wf_reset _, rfl⟩

theorem memInv_hostEffect {s u : State} (hb : s.build.legal = true) (h : s.MemInv) (hu : HostEffect s u) : u.MemInv := by
  obtain ⟨htx, hrx, hdl⟩ := h
  obtain ⟨_, ⟨_, htx8⟩, ⟨_, hrx8⟩, _⟩ := legal_ranges hb
  cases hu with
  | nothing => exact ⟨htx, hrx, hdl⟩
  | registers => exact ⟨htx, hrx, hdl⟩
  | push b => exact ⟨Fifo.wf_push b htx8 htx, hrx, hdl⟩
  | pop => exact ⟨htx, Fifo.wf_pop hrx8 hrx, hdl⟩
  | clear t r =>
    refine ⟨?_, ?_, hdl⟩
    · cases t with
      | false => exact htx
      | true => exact Fifo.wf_clear htx
    · cases r with
      | false => exact hrx
      | true => exact Fifo.wf_clear hrx
  | reconfigure p d =>
    exact ⟨Fifo.wf_clear htx, Fifo.wf_clear hrx,
      memWf_reconfigure_dl (s := { s with cfgProfile := p, cfgDir := d }) hb hdl⟩
  | acquire => rw [acquire_frame]; exact ⟨htx, hrx, hdl⟩
  | stop => exact ⟨htx, hrx, hdl⟩
  | acknowledge => exact ⟨htx, hrx, hdl⟩

/-- A TICK pops the TX FIFO or not, pushes into the RX FIFO or not, and moves the delay line on. -/
theorem memInv_afterTick (x : Byte) {s : State} (hb : s.build.legal = true) (h : s.MemInv) : (s.afterTick x).MemInv := by
  obtain ⟨htx, hrx, hdl⟩ := h
  obtain ⟨_, ⟨_, htx8⟩, ⟨_, hrx8⟩, _⟩ := legal_ranges hb
  obtain ⟨hq1, hq⟩ := queuelen_range hb
  have htxf : (s.afterTick x).txf = (tickTransmit s).txf := congrArg TxView.txf (afterTick_txView x s)
  unfold State.MemInv
  rw [afterTick_build, htxf, afterTick_dl]
  refine ⟨wf_tickTransmit_txf htx8 htx, ?_, memWf_delayPush x hdl hq hq1⟩
  rcases afterTick_rxf x s with e | ⟨_, e⟩ <;> rw [e]
  · exact hrx
  · exact Fifo.wf_push _ hrx8 hrx

theorem memInv_stepInvariant : StepInvariant State.MemInv where
  reset b _ := memInv_resetOf b
  ports _ _ _ _ h := h
  answer _ _ _ _ h := h
  host _ _ hb h hu := memInv_hostEffect hb h hu
  tick x _ hb h := memInv_afterTick x hb h

/-- Settles O56: each memory is written by its own primitive, which keeps the form, at an index that the build bounds. -/
theorem stepKeepsTheMemories : Obligations.StepKeepsTheMemories := memInv_stepInvariant.step

end Sys2Proof.Machine
end

section
/-! Every step keeps the ranges of the TX engine (10_state.md rules R31, R32, R36 and R37). -/

namespace Sys2Proof.Machine

/-- A u8 store of a sum that fits is not wrapped (rule R12). -/
theorem wrap8_toNat {n : Nat} (h : n < 256) : (wrap8 n).toNat = n := by
  rw [wrap8, BitVec.toNat_ofNat, Nat.mod_eq_of_lt h]

/-- The ranges but that of `TX_CNT` are about the framer alone. -/
theorem State.TxInv.of_framer {s t : State} (h : s.TxInv) (hb : t.build = s.build)
    (hst : t.txState = s.txState) (hact : t.txActive = s.txActive) (hbits : t.txBits = s.txBits)
    (hcnt : t.txCnt.toNat < s.build.maxSpb) : t.TxInv where
  stateCode := by rw [hst]; exact h.stateCode
  active := by rw [hst, hact]; exact h.active
  cnt := by rw [hb]; exact hcnt
  bits := by rw [hb, hbits]; exact h.bits
  preamble := by rw [hb, hst, hbits]; exact h.preamble

/-- A state with the same build and, but for the FIFO, the same TX engine is in range too. -/
theorem State.TxInv.of_txView {s t : State} (h : s.TxInv) (hb : t.build = s.build)
    (hv : t.txView = { s.txView with txf := t.txf }) : t.TxInv :=
  have hcnt : t.txCnt = s.txCnt := congrArg TxView.txCnt hv
  h.of_framer hb (congrArg TxView.txState hv) (congrArg TxView.txActive hv) (congrArg TxView.txBits hv)
    (hcnt ▸ h.cnt)

theorem maxSpb_pos {b : Build} (hb : b.legal = true) : 0 < b.maxSpb := Nat.lt_of_lt_of_le (by decide) (maxSpb_range hb).1

theorem txInv_resetOf {b : Build} (hb : b.legal = true) : (State.resetOf b).TxInv where
  stateCode := ⟨nofun, nofun⟩
  active := ⟨nofun, fun h => absurd rfl h⟩
  cnt := maxSpb_pos hb
  bits := Nat.zero_le _
  preamble := nofun

/-- Past the preamble only the two counts are left to show. -/
theorem txInv_of_sending {t : State} (hst : t.txState ∈ [.startBit, .dataBit, .stopBit, .trail])
    (hact : t.txActive = true) (hcnt : t.txCnt.toNat < t.build.maxSpb)
    (hbits : t.txBits.toNat ≤ max t.build.carrierBits t.build.maxDataBits) : t.TxInv where
  stateCode := by constructor <;> (intro hs; simp [hs] at hst)
  active := ⟨fun _ hs => by simp [hs] at hst, fun _ => hact⟩
  cnt := hcnt
  bits := hbits
  preamble hs := by simp [hs] at hst

theorem txInv_txWait {s : State} (hb : s.build.legal = true) (h : s.TxInv) : (txWait s).TxInv := by
  have hcar := (legal_ranges hb).2.2.2.2.2.2.1
  unfold txWait
  split
  · exact h.of_framer rfl rfl rfl rfl h.cnt
  · exact { stateCode := ⟨nofun, nofun⟩, active := ⟨fun _ => nofun, fun _ => rfl⟩, cnt := h.cnt,
            bits := Nat.zero_le _, preamble := fun _ => hcar }

/-- The count of preamble symbols stays below `CARRIER_BITS`, or the preamble ends (rule R182). -/
theorem txInv_txPreamble {s : State} (hb : s.build.legal = true) (h : s.TxInv) (hs : s.txState = .preamble) :
    (txPreamble s).TxInv := by
  have hcar := (legal_ranges hb).2.2.2.2.2.2.2
  have hlt := h.preamble hs
  have hbits : (wrap8 (s.txBits.toNat + 1)).toNat = s.txBits.toNat + 1 := wrap8_toNat (by omega)
  have hle : (wrap8 (s.txBits.toNat + 1)).toNat ≤ max s.build.carrierBits s.build.maxDataBits := by omega
  unfold txPreamble
  dsimp only
  split
  · exact txInv_of_sending (by simp) (h.active.mpr (by simp [hs])) h.cnt hle
  · next hmore =>
    simp only [Bool.or_eq_true, decide_eq_true_eq, not_or, Nat.not_le] at hmore
    exact { stateCode := h.stateCode, active := h.active, cnt := h.cnt, bits := hle, preamble := fun _ => hmore.1 }

theorem txInv_txStartBit {s : State} (hb : s.build.legal = true) (h : s.TxInv) (hs : s.txState = .startBit) :
    (txStartBit s).TxInv :=
  have hcar : 1 ≤ s.build.carrierBits := (legal_ranges hb).2.2.2.2.2.2.1
  txInv_of_sending (by simp [txStartBit]) (h.active.mpr (by simp [hs])) h.cnt (Nat.le_trans hcar (Nat.le_max_left _ _))

/-- A data bit is counted only below `DATA_BITS` (rule R184). -/
theorem txInv_txDataBit {s : State} (hb : s.build.legal = true) (h : s.TxInv) (hs : s.txState = .dataBit) :
    (txDataBit s).TxInv := by
  have hact := h.active.mpr (by simp [hs])
  unfold txDataBit
  split
  · exact txInv_of_sending (by simp) hact h.cnt h.bits
  · next hmore =>
    have hdata := (dataBits_range hb).2
    have hmax := dataBits_le_maxDataBits s
    have hbits : (wrap8 (s.txBits.toNat + 1)).toNat = s.txBits.toNat + 1 := wrap8_toNat (by omega)
    have hle : (wrap8 (s.txBits.toNat + 1)).toNat ≤ max s.build.carrierBits s.build.maxDataBits := by omega
    exact txInv_of_sending (by simp [hs]) hact h.cnt hle

theorem txInv_startNextByte {s : State} (h : s.TxInv) (hs : s.txState ≠ .wait) : s.startNextByte.TxInv :=
  txInv_of_sending (by simp) (h.active.mpr hs) h.cnt h.bits

theorem txInv_txStopBit {s : State} (h : s.TxInv) (hs : s.txState = .stopBit) : (txStopBit s).TxInv := by
  unfold txStopBit
  split
  · exact txInv_of_sending (by simp) (h.active.mpr (by simp [hs])) h.cnt (Nat.zero_le _)
  · exact txInv_startNextByte h (by simp [hs])

/-- The trail count is held at `CARRIER_BITS`, or stays where it is (rule R186). -/
theorem trailBits_le {s : State} (hb : s.build.legal = true) :
    s.trailBits.toNat ≤ max s.build.carrierBits s.txBits.toNat := by
  have hcar := (legal_ranges hb).2.2.2.2.2.2.2
  unfold State.trailBits
  split
  · rw [wrap8_toNat (by omega)]; omega
  · exact Nat.le_max_right _ _

theorem txInv_txTrail {s : State} (hb : s.build.legal = true) (h : s.TxInv) (hs : s.txState = .trail) :
    (txTrail s).TxInv := by
  have hbits := h.bits
  have htrail := trailBits_le hb
  have hle : s.trailBits.toNat ≤ max s.build.carrierBits s.build.maxDataBits := by omega
  unfold txTrail
  split
  · split
    · exact { stateCode := ⟨nofun, nofun⟩, active := ⟨nofun, fun hw => absurd rfl hw⟩, cnt := maxSpb_pos hb,
              bits := Nat.zero_le _, preamble := nofun }
    · exact txInv_of_sending (by simp [hs]) (h.active.mpr (by simp [hs])) h.cnt hle
  · exact txInv_startNextByte h (by simp [hs])

theorem txInv_txFrame {s : State} (hb : s.build.legal = true) (h : s.TxInv) : (txFrame s).TxInv := by
  cases hs : s.txState with
  | wait => rw [txFrame_of_wait hs]; exact txInv_txWait hb h
  | preamble => rw [txFrame_of_preamble hs]; exact txInv_txPreamble hb h hs
  | startBit => rw [txFrame_of_startBit hs]; exact txInv_txStartBit hb h hs
  | dataBit => rw [txFrame_of_dataBit hs]; exact txInv_txDataBit hb h hs
  | stopBit => rw [txFrame_of_stopBit hs]; exact txInv_txStopBit h hs
  | trail => rw [txFrame_of_trail hs]; exact txInv_txTrail hb h hs
  | unused6 => exact absurd hs h.stateCode.1
  | unused7 => exact absurd hs h.stateCode.2

/-- `DialStep` leaves the TX engine but its FIFO alone (rule R195). -/
theorem dialStep_txView (s : State) :
    (dialStep s).build = s.build ∧ (dialStep s).txView = { s.txView with txf := (dialStep s).txf } := by
  rw [dialStep_frame]; exact ⟨rfl, rfl⟩

/-- The symbol clock counts below `SPB`, or starts again as the framer runs (rules R170 and R174). -/
theorem txInv_tickTransmit {s : State} (hb : s.build.legal = true) (h : s.TxInv) : (tickTransmit s).TxInv := by
  cases hd : s.dialMode with
  | true =>
    rw [tickTransmit_dial hd]
    obtain ⟨hbuild, hview⟩ := dialStep_txView { s with dtmfSend := none }
    exact h.of_txView hbuild hview
  | false =>
    rcases Nat.lt_or_ge (wrap8 (s.txCnt.toNat + 1)).toNat s.spb with hmid | hend
    · rw [tickTransmit_mid hd hmid]
      exact h.of_framer rfl rfl rfl rfl (Nat.lt_of_lt_of_le hmid (spb_le_maxSpb s))
    · rw [tickTransmit_symbol hd hend]
      exact txInv_txFrame hb (h.of_framer rfl rfl rfl rfl (maxSpb_pos hb))

theorem txInv_afterTick (x : Byte) {s : State} (hb : s.build.legal = true) (h : s.TxInv) : (s.afterTick x).TxInv := by
  have hbuild : (s.afterTick x).build = (tickTransmit s).build := by
    rw [afterTick_build, (tickTransmit_sameReceiver s).build]
  have hview := afterTick_txView x s
  have hcnt : (s.afterTick x).txCnt = (tickTransmit s).txCnt := congrArg TxView.txCnt hview
  have ht := txInv_tickTransmit hb h
  exact ht.of_framer hbuild (congrArg TxView.txState hview) (congrArg TxView.txActive hview)
    (congrArg TxView.txBits hview) (hcnt ▸ ht.cnt)

theorem txInv_stepInvariant : StepInvariant State.TxInv where
  reset _ hb := txInv_resetOf hb
  ports _ _ _ _ h := h.of_txView rfl rfl
  answer _ _ _ _ h := h.of_txView rfl rfl
  host _ _ _ h hu := h.of_txView hu.build hu.txView
  tick x _ hb h := txInv_afterTick x hb h

/-- Settles O57: no host command writes the framer, and each state of the framer hands the next one a count in its range. -/
theorem stepKeepsTheTransmitterRanges : Obligations.StepKeepsTheTransmitterRanges := txInv_stepInvariant.step

end Sys2Proof.Machine
end

section
/-! Every step keeps the ranges of the RX framer and the relations of the carrier detector (10_state.md rules R40, R41 and
R43). -/

namespace Sys2Proof.Machine

/-! What both invariants read: the build and the framer view. -/

/-- The receiver after a TICK is the framer's rule run on a state with the same receiver (rules R111 and R220). -/
theorem afterTick_runs_rxFrame (x : Byte) (s : State) :
    ∃ bit u, u.build = s.build ∧ u.framerView = s.framerView ∧ (s.afterTick x).build = (rxFrame bit u).build ∧
      (s.afterTick x).framerView = (rxFrame bit u).framerView := by
  refine ⟨_, { s with rxHist := (s.afterTick x).rxHist }, rfl, rfl, ?_, afterTick_framerView x s⟩
  rw [afterTick_build, rxFrame_frame]; rfl

/-! The ranges of the RX framer. -/

/-- The ranges of the window registers, whatever the state of the framer. -/
structure State.RxWindow (s : State) : Prop where
  bitsum : s.rxBitsum.toNat ≤ s.rxCnt.toNat
  cnt    : s.rxCnt.toNat ≤ s.build.maxSpb
  bits   : s.rxBits.toNat ≤ s.build.maxDataBits
  byte   : s.rxByte.toNat < 2 ^ s.rxBits.toNat

theorem State.RxInv.window {s : State} (h : s.RxInv) : s.RxWindow := ⟨h.bitsum, h.cnt, h.bits, h.byte⟩

/-- Outside the windows only the registers' ranges are to show. -/
theorem State.RxWindow.idle {s : State} (h : s.RxWindow) (hs : s.rxState ∈ [.wait, .carrier, .noCarrier, .nop]) :
    s.RxInv where
  bitsum := h.bitsum
  cnt := h.cnt
  half hw := by rcases hw with hw | hw <;> simp [hw] at hs
  full hw := by rcases hw with hw | hw <;> simp [hw] at hs
  bits := h.bits
  dataBits hw := by simp [hw] at hs
  byte := h.byte

/-- In a half window the count is to be shown as well (rules R224 and R228). -/
theorem State.RxWindow.halfWindow {s : State} (h : s.RxWindow) (hs : s.rxState ∈ [.preamble, .stopBit])
    (hcnt : s.rxCnt.toNat < s.build.maxSpb / 2) : s.RxInv where
  bitsum := h.bitsum
  cnt := h.cnt
  half _ := hcnt
  full hw := by rcases hw with hw | hw <;> simp [hw] at hs
  bits := h.bits
  dataBits hw := by simp [hw] at hs
  byte := h.byte

/-- In a full window the count is to be shown, and in DATA_BIT the bits still to come (rules R225 and R226). -/
theorem State.RxWindow.fullWindow {s : State} (h : s.RxWindow) (hs : s.rxState ∈ [.startBit, .dataBit])
    (hcnt : s.rxCnt.toNat < s.build.maxSpb) (hbits : s.rxState = .dataBit → s.rxBits.toNat < s.build.maxDataBits) :
    s.RxInv where
  bitsum := h.bitsum
  cnt := h.cnt
  half hw := by rcases hw with hw | hw <;> simp [hw] at hs
  full _ := hcnt
  bits := h.bits
  dataBits := hbits
  byte := h.byte

/-- Equal window registers on the same build are in the same ranges. -/
theorem State.RxInv.congr {s t : State} (h : s.RxInv) (hb : t.build = s.build) (hv : t.framerView = s.framerView) :
    t.RxInv := by
  have hst : t.rxState = s.rxState := congrArg FramerView.rxState hv
  have hsum : t.rxBitsum = s.rxBitsum := congrArg FramerView.rxBitsum hv
  have hcnt : t.rxCnt = s.rxCnt := congrArg FramerView.rxCnt hv
  have hbyte : t.rxByte = s.rxByte := congrArg FramerView.rxByte hv
  have hbits : t.rxBits = s.rxBits := congrArg FramerView.rxBits hv
  exact { bitsum := by rw [hsum, hcnt]; exact h.bitsum
          cnt := by rw [hcnt, hb]; exact h.cnt
          half := by rw [hst, hcnt, hb]; exact h.half
          full := by rw [hst, hcnt, hb]; exact h.full
          bits := by rw [hbits, hb]; exact h.bits
          dataBits := by rw [hst, hbits, hb]; exact h.dataBits
          byte := by rw [hbyte, hbits]; exact h.byte }

theorem rxInv_resetOf (b : Build) : (State.resetOf b).RxInv :=
  State.RxWindow.idle ⟨Nat.le_refl _, Nat.zero_le _, Nat.zero_le _, Nat.zero_lt_one⟩ (by simp [State.resetOf])

theorem bitVal_le_one (b : Bool) : bitVal b ≤ 1 := by cases b <;> decide

/-- A decision counted into a window that is not full stays in the ranges (rules R224 to R228). -/
theorem rxWindow_countDecision (bit : Bool) {s : State} (hb : s.build.legal = true) (h : s.RxWindow)
    (hlt : s.rxCnt.toNat < s.build.maxSpb) :
    (countDecision bit s).RxWindow ∧ (countDecision bit s).rxCnt.toNat = s.rxCnt.toNat + 1 := by
  have hmax := (maxSpb_range hb).2
  have hsum := h.bitsum
  have hbit := bitVal_le_one bit
  have hcnt' : (countDecision bit s).rxCnt.toNat = s.rxCnt.toNat + 1 := wrap8_toNat (by omega)
  have hsum' : (countDecision bit s).rxBitsum.toNat = s.rxBitsum.toNat + bitVal bit := wrap8_toNat (by omega)
  exact ⟨⟨by omega, by rw [hcnt']; exact hlt, h.bits, h.byte⟩, hcnt'⟩

theorem rxInv_rxWait {s : State} (hb : s.build.legal = true) (h : s.RxWindow) (hs : s.rxState = .wait) :
    (rxWait s).RxInv := by
  have hmax := (maxSpb_range hb).1
  rcases rxWait_cases s with ⟨_, e⟩ | ⟨n, e⟩ <;> rw [e]
  · exact State.RxWindow.idle ⟨h.bitsum, h.cnt, h.bits, h.byte⟩ (by simp)
  · rcases rxEdgeSearch_cases { s with lossCnt := n } with e | e <;> rw [e]
    · exact State.RxWindow.idle ⟨h.bitsum, h.cnt, h.bits, h.byte⟩ (by simp [hs])
    · have hpos : 0 < s.build.maxSpb / 2 := by omega
      exact State.RxWindow.halfWindow ⟨Nat.le_refl _, Nat.zero_le _, h.bits, h.byte⟩ (by simp) hpos

theorem rxInv_rxPreambleCheck {s : State} (h : s.RxWindow) (hs : s.rxState = .preamble)
    (hcnt : s.rxCnt.toNat < s.build.maxSpb) : (rxPreambleCheck s).RxInv := by
  have hmax := spb_le_maxSpb s
  unfold rxPreambleCheck
  split
  · split
    · exact State.RxWindow.fullWindow ⟨h.bitsum, h.cnt, h.bits, h.byte⟩ (by simp) hcnt nofun
    · exact State.RxWindow.idle ⟨h.bitsum, h.cnt, h.bits, h.byte⟩ (by simp)
  · exact h.halfWindow (by simp [hs]) (by omega)

theorem rxInv_rxStartBitCheck {s : State} (hb : s.build.legal = true) (h : s.RxWindow) (hs : s.rxState = .startBit) :
    (rxStartBitCheck s).RxInv := by
  have hmax := spb_le_maxSpb s
  unfold rxStartBitCheck
  split
  · split
    · exact State.RxWindow.fullWindow ⟨Nat.le_refl _, Nat.zero_le _, Nat.zero_le _, Nat.zero_lt_one⟩ (by simp)
        (maxSpb_pos hb) (fun _ => (maxDataBits_range hb).1)
    · exact State.RxWindow.idle ⟨h.bitsum, h.cnt, h.bits, h.byte⟩ (by simp)
  · exact h.fullWindow (by simp [hs]) (by omega) (by simp [hs])

/-- The bit received at place `n` sets no bit above it (rule R227). -/
theorem or_bitVal_lt {n : Nat} {b : Byte} (bit : Bool) (hb : b.toNat < 2 ^ n) :
    (b ||| wrap8 (bitVal bit * 2 ^ n)).toNat < 2 ^ (n + 1) := by
  have hbit := Nat.mul_le_mul_right (2 ^ n) (bitVal_le_one bit)
  have hpow := Nat.pow_succ 2 n
  have hpos := Nat.two_pow_pos n
  rw [BitVec.toNat_or, wrap8, BitVec.toNat_ofNat]
  have hmod := Nat.mod_le (bitVal bit * 2 ^ n) (2 ^ 8)
  exact Nat.or_lt_two_pow (by omega) (by omega)

theorem rxInv_rxDataBitCheck {s : State} (hb : s.build.legal = true) (h : s.RxWindow) (hs : s.rxState = .dataBit)
    (hmore : s.rxBits.toNat < s.build.maxDataBits) : (rxDataBitCheck s).RxInv := by
  have hmax := spb_le_maxSpb s
  have hspb := (maxSpb_range hb).1
  have hdata := (maxDataBits_range hb).2
  have hle := dataBits_le_maxDataBits s
  unfold rxDataBitCheck
  dsimp only
  split
  · have hbits : (BitVec.ofNat 4 (s.rxBits.toNat + 1)).toNat = s.rxBits.toNat + 1 := by
      rw [BitVec.toNat_ofNat]; omega
    have hbits' : (BitVec.ofNat 4 (s.rxBits.toNat + 1)).toNat ≤ s.build.maxDataBits := by omega
    have hbyte := or_bitVal_lt (decide (s.spb / 2 < s.rxBitsum.toNat)) h.byte
    rw [← hbits] at hbyte
    have hhalf : 0 < s.build.maxSpb / 2 := by omega
    split
    · exact State.RxWindow.halfWindow ⟨Nat.le_refl _, Nat.zero_le _, hbits', hbyte⟩ (by simp) hhalf
    · next hlast =>
      exact State.RxWindow.fullWindow ⟨Nat.le_refl _, Nat.zero_le _, hbits', hbyte⟩ (by simp) (maxSpb_pos hb)
        (fun _ => Nat.lt_of_lt_of_le (Nat.lt_of_not_le hlast) hle)
  · exact h.fullWindow (by simp [hs]) (by omega) (fun _ => hmore)

theorem rxInv_rxStopBitCheck {s : State} (h : s.RxWindow) (hs : s.rxState = .stopBit) : (rxStopBitCheck s).RxInv := by
  have hmax := spb_le_maxSpb s
  unfold rxStopBitCheck
  split
  · split <;> exact State.RxWindow.idle ⟨h.bitsum, h.cnt, h.bits, h.byte⟩ (by simp)
  · exact h.halfWindow (by simp [hs]) (by omega)

/-- `CarrierStep` leaves the window registers alone, and the framer outside the windows (rule R263). -/
theorem rxInv_carrierStep (bit : Bool) {s : State} (h : s.RxWindow) (hs : s.rxState = .carrier) :
    (carrierStep bit s).RxInv := by
  rcases carrierStep_cases bit s with ⟨_, e⟩ | ⟨_, _, e⟩ | ⟨_, _, e⟩ <;> rw [e] <;>
    exact State.RxWindow.idle ⟨h.bitsum, h.cnt, h.bits, h.byte⟩ (by simp [hs])

theorem rxInv_rxFrame (bit : Bool) {s : State} (hb : s.build.legal = true) (h : s.RxInv) : (rxFrame bit s).RxInv := by
  have count := rxWindow_countDecision bit hb h.window
  have hhalf := Nat.div_le_self s.build.maxSpb 2
  cases hs : s.rxState with
  | wait => rw [rxFrame_of_wait hs]; exact rxInv_rxWait hb h.window hs
  | preamble =>
    have hlt := h.half (.inl hs)
    obtain ⟨hw, hcnt⟩ := count (by omega)
    have hlt' : (countDecision bit s).rxCnt.toNat < s.build.maxSpb := by omega
    rw [rxFrame_of_preamble hs]; exact rxInv_rxPreambleCheck hw hs hlt'
  | startBit =>
    rw [rxFrame_of_startBit hs]
    exact rxInv_rxStartBitCheck hb (count (h.full (.inl hs))).1 hs
  | dataBit =>
    rw [rxFrame_of_dataBit hs]
    exact rxInv_rxDataBitCheck hb (count (h.full (.inr hs))).1 hs (h.dataBits hs)
  | stopBit =>
    have hlt := h.half (.inr hs)
    rw [rxFrame_of_stopBit hs]; exact rxInv_rxStopBitCheck (count (by omega)).1 hs
  | carrier => rw [rxFrame_of_carrier hs]; exact rxInv_carrierStep bit h.window hs
  | noCarrier => rw [rxFrame_of_noCarrier hs]; exact h
  | nop => rw [rxFrame_of_nop hs]; exact h

/-- The effects on the receiver only ever leave the windows. -/
theorem rxInv_hostEffect {s u : State} (h : s.RxInv) (hu : HostEffect s u) : u.RxInv := by
  cases hu with
  | acquire =>
    rcases acquire_cases s with ⟨_, e⟩ | ⟨_, _, e⟩ <;> rw [e] <;>
      exact State.RxWindow.idle ⟨h.bitsum, h.cnt, h.bits, h.byte⟩ (by simp)
  | stop => exact State.RxWindow.idle ⟨h.bitsum, h.cnt, h.bits, h.byte⟩ (by simp)
  | acknowledge => exact State.RxWindow.idle ⟨h.bitsum, h.cnt, h.bits, h.byte⟩ (by simp)
  | _ => exact ⟨h.bitsum, h.cnt, h.half, h.full, h.bits, h.dataBits, h.byte⟩

theorem rxInv_afterTick (x : Byte) {s : State} (hb : s.build.legal = true) (h : s.RxInv) : (s.afterTick x).RxInv := by
  obtain ⟨bit, u, hbu, hvu, hbt, hvt⟩ := afterTick_runs_rxFrame x s
  exact (rxInv_rxFrame bit (hbu ▸ hb) (h.congr hbu hvu)).congr hbt hvt

theorem rxInv_stepInvariant : StepInvariant State.RxInv where
  reset b _ := rxInv_resetOf b
  ports _ _ _ _ h := h.congr rfl rfl
  answer _ _ _ _ h := h.congr rfl rfl
  host _ _ _ h hu := rxInv_hostEffect h hu
  tick x _ hb h := rxInv_afterTick x hb h

/-- Settles O58: a decision is counted only into a window that is not full, a full window is closed at once, and a host
command only ever leaves the windows. -/
theorem stepKeepsTheReceiverRanges : Obligations.StepKeepsTheReceiverRanges := rxInv_stepInvariant.step

/-! The relations of the carrier detector. -/

theorem State.CarrierInv.congr {s t : State} (h : s.CarrierInv) (hv : t.framerView = s.framerView) : t.CarrierInv := by
  have hst : t.rxState = s.rxState := congrArg FramerView.rxState hv
  have hlock : t.carrierLocked = s.carrierLocked := congrArg FramerView.carrierLocked hv
  have hfail : t.acqFailed = s.acqFailed := congrArg FramerView.acqFailed hv
  have hwait : t.waitCnt = s.waitCnt := congrArg FramerView.waitCnt hv
  exact { locked := by rw [hlock, hst]; exact h.locked
          failed := by rw [hfail, hst]; exact h.failed
          timer := by rw [hst, hwait]; exact h.timer }

/-- In a framing state: a locked carrier and no failed acquisition. -/
theorem carrierInv_of_framing {t : State} (hst : t.rxState.framing = true) (hlock : t.carrierLocked = true)
    (hfail : t.acqFailed = false) : t.CarrierInv where
  locked := ⟨fun _ => hst, fun _ => hlock⟩
  failed h := by simp [hfail] at h
  timer h := by simp [h, RxState.framing] at hst

theorem carrierInv_of_nop {t : State} (hst : t.rxState = .nop) (hlock : t.carrierLocked = false) : t.CarrierInv where
  locked := by simp [hst, hlock, RxState.framing]
  failed _ := hst
  timer h := by simp [hst] at h

/-- While an acquisition runs: no lock yet, none failed, and time left. -/
theorem carrierInv_of_carrier {t : State} (hst : t.rxState = .carrier) (hlock : t.carrierLocked = false)
    (hfail : t.acqFailed = false) (htime : t.waitCnt ≠ 0) : t.CarrierInv where
  locked := by simp [hst, hlock, RxState.framing]
  failed h := by simp [hfail] at h
  timer _ := htime

theorem State.CarrierInv.notFailed {s : State} (h : s.CarrierInv) (hs : s.rxState ≠ .nop) : s.acqFailed = false :=
  Bool.eq_false_iff.mpr (mt h.failed hs)

theorem State.CarrierInv.notLocked {s : State} (h : s.CarrierInv) (hs : s.rxState.framing = false) :
    s.carrierLocked = false :=
  Bool.eq_false_iff.mpr (mt h.locked.mp (by simp [hs]))

theorem carrierInv_resetOf (b : Build) : (State.resetOf b).CarrierInv := carrierInv_of_nop rfl rfl

/-- The states with a window (rules R224 to R228). -/
def RxState.hasWindow (r : RxState) : Prop := r ∈ [.preamble, .startBit, .dataBit, .stopBit]

/-- A window rule leaves the carrier detector alone (rules R224 to R228). -/
theorem rxFrame_detector_of_window (bit : Bool) {s : State} (hs : s.rxState.hasWindow) :
    (rxFrame bit s).carrierLocked = s.carrierLocked ∧ (rxFrame bit s).acqFailed = s.acqFailed := by
  unfold rxFrame
  split
  next h => simp [RxState.hasWindow, h] at hs
  · unfold rxPreambleCheck
    split
    · split <;> exact ⟨rfl, rfl⟩
    · exact ⟨rfl, rfl⟩
  · unfold rxStartBitCheck
    split
    · split <;> exact ⟨rfl, rfl⟩
    · exact ⟨rfl, rfl⟩
  · unfold rxDataBitCheck
    split <;> exact ⟨rfl, rfl⟩
  · unfold rxStopBitCheck
    split
    · split <;> exact ⟨rfl, rfl⟩
    · exact ⟨rfl, rfl⟩
  all_goals next h => simp [RxState.hasWindow, h] at hs

/-- A window is followed by a framing state. -/
theorem RxState.framing_of_hasWindow {r r' : RxState} (h : r.hasWindow) (h' : r' ∈ r.successors) :
    r.framing = true ∧ r'.framing = true := by
  simp only [RxState.hasWindow, List.mem_cons, List.not_mem_nil, or_false] at h
  rcases h with rfl | rfl | rfl | rfl <;> refine ⟨rfl, ?_⟩ <;> revert r' <;> decide

theorem carrierInv_rxFrame_of_window (bit : Bool) {s : State} (h : s.CarrierInv) (hs : s.rxState.hasWindow) :
    (rxFrame bit s).CarrierInv := by
  obtain ⟨hnow, hnext⟩ := RxState.framing_of_hasWindow hs (rxFrame_rxState bit s)
  obtain ⟨hlock, hfail⟩ := rxFrame_detector_of_window bit hs
  have hne : s.rxState ≠ .nop := fun hnop => by simp [hnop, RxState.framing] at hnow
  exact carrierInv_of_framing hnext (hlock.trans (h.locked.mpr hnow)) (hfail.trans (h.notFailed hne))

/-- WAIT: the carrier goes with the move to NO_CARRIER, or is kept with the framing state (rules R221 and R222). -/
theorem carrierInv_rxWait {s : State} (h : s.CarrierInv) (hs : s.rxState = .wait) : (rxWait s).CarrierInv := by
  have hlock : s.carrierLocked = true := h.locked.mpr (by simp [hs, RxState.framing])
  have hfail : s.acqFailed = false := h.notFailed (by simp [hs])
  rcases rxWait_cases s with ⟨_, e⟩ | ⟨n, e⟩ <;> rw [e]
  · exact { locked := by simp [RxState.framing], failed := by simp [hfail], timer := by simp }
  · rcases rxEdgeSearch_cases { s with lossCnt := n } with e | e <;> rw [e]
    · exact carrierInv_of_framing (by simp [hs, RxState.framing]) hlock hfail
    · exact carrierInv_of_framing rfl hlock hfail

/-- CARRIER: a lock moves to WAIT, a timeout to NOP, and a wait goes on with time left (rule R263). -/
theorem carrierInv_carrierStep (bit : Bool) {s : State} (h : s.CarrierInv) (hs : s.rxState = .carrier) :
    (carrierStep bit s).CarrierInv := by
  have hlock : s.carrierLocked = false := h.notLocked (by simp [hs, RxState.framing])
  have hfail : s.acqFailed = false := h.notFailed (by simp [hs])
  rcases carrierStep_cases bit s with ⟨_, e⟩ | ⟨_, _, e⟩ | ⟨_, htime, e⟩ <;> rw [e]
  · exact carrierInv_of_framing rfl rfl hfail
  · exact carrierInv_of_nop rfl hlock
  · have hne : s.waitCnt - 1 ≠ 0 := by bv_omega
    exact carrierInv_of_carrier hs hlock hfail hne

theorem carrierInv_rxFrame (bit : Bool) {s : State} (h : s.CarrierInv) : (rxFrame bit s).CarrierInv := by
  cases hs : s.rxState with
  | wait => rw [rxFrame_of_wait hs]; exact carrierInv_rxWait h hs
  | carrier => rw [rxFrame_of_carrier hs]; exact carrierInv_carrierStep bit h hs
  | noCarrier => rw [rxFrame_of_noCarrier hs]; exact h
  | nop => rw [rxFrame_of_nop hs]; exact h
  | _ => exact carrierInv_rxFrame_of_window bit h (by simp [hs, RxState.hasWindow])

theorem carrierInv_acquire {s : State} (hb : s.build.legal = true) : s.acquire.CarrierInv := by
  rcases acquire_cases s with ⟨_, e⟩ | ⟨hwait, _, e⟩ <;> rw [e]
  · exact carrierInv_of_framing rfl rfl rfl
  · exact carrierInv_of_carrier rfl rfl rfl (waitSamples_loaded hb hwait)

theorem carrierInv_hostEffect {s u : State} (hb : s.build.legal = true) (h : s.CarrierInv) (hu : HostEffect s u) :
    u.CarrierInv := by
  cases hu with
  | acquire => exact carrierInv_acquire hb
  | stop => exact carrierInv_of_nop rfl rfl
  | acknowledge hs => exact carrierInv_of_nop rfl (h.notLocked (by simp [hs, RxState.framing]))
  | _ => exact ⟨h.locked, h.failed, h.timer⟩

theorem carrierInv_afterTick (x : Byte) {s : State} (h : s.CarrierInv) : (s.afterTick x).CarrierInv := by
  obtain ⟨bit, u, _, hvu, _, hvt⟩ := afterTick_runs_rxFrame x s
  exact (carrierInv_rxFrame bit (h.congr hvu)).congr hvt

theorem carrierInv_stepInvariant : StepInvariant State.CarrierInv where
  reset b _ := carrierInv_resetOf b
  ports _ _ _ _ h := h.congr rfl
  answer _ _ _ _ h := h.congr rfl
  host _ _ hb h hu := carrierInv_hostEffect hb h hu
  tick x _ _ h := carrierInv_afterTick x h

/-- Settles O59: the lock and the state of the framer are written together, by `Acquire`, by `CarrierStep`, at a carrier
loss and by `SETRXCAR 0`; the other rules move between framing states. -/
theorem stepKeepsTheCarrierRelations : Obligations.StepKeepsTheCarrierRelations := carrierInv_stepInvariant.step

end Sys2Proof.Machine
end

section
/-! The derived timer constants, the step as the run of one decoded operation, and the commands that read and write the
state directly: `SETDIR`, `SETTXCAR` and `STATUS` (10_state.md rules R22, R24, R29 and R46 to R50). -/

namespace Sys2Proof.Machine

/-! The timer constants. -/

/-- A timer register times the sample rate, the product in every timer constant (rules R47 to R49). -/
theorem register_mul_sampleRate_le {b : Build} (hb : b.legal = true) (r : BitVec 8) :
    r.toNat * b.sampleRate ≤ 255 * 65535 :=
  Nat.mul_le_mul (Nat.le_of_lt_succ r.isLt) (legal_ranges hb).1.2

/-- Settles O15: an 8-bit register times a legal sample rate is below 2^24, and the constants are at most that. -/
theorem timerConstantsFitTheirCounters : Obligations.TimerConstantsFitTheirCounters := by
  intro s hb
  have hcd := register_mul_sampleRate_le hb s.cfgCdTenths
  have hloss := register_mul_sampleRate_le hb s.cfgLossTenths
  have hwait := register_mul_sampleRate_le hb s.cfgWaitSeconds
  refine ⟨Nat.le_max_left _ _, ?_, ?_, ?_, rfl, rfl, ?_⟩
  · unfold State.cdTotal; dsimp only; omega
  · unfold State.lossSamples; omega
  · unfold State.waitSamples; omega
  · rintro n rfl; rfl

/-! The step. -/

theorem step_of_takeOp_instr {s t : State} {i : Instr} (h : takeOp s = .instr i t) : step s = exec i t := by
  unfold step
  rw [h]

/-- The next operation is a command: the host agent's word is decoded, and is gone from the input (rule R87). -/
theorem takeOp_command {s : State} {w : Word} {rest : List PortOp} (hb : s.build.legal = true)
    (hin : s.input = .command w :: rest) :
    takeOp s = Taken.ofDecoded (decode (.command w)) { s with input := rest } := by
  unfold takeOp
  rw [if_pos hb, hin]

/-- The next operation is a TICK: it brings the levels of the DTMF inputs with it (rule R45). -/
theorem takeOp_tick {s : State} {x : Byte} {a : Bool} {d : Byte} {rest : List PortOp} (hb : s.build.legal = true)
    (hin : s.input = .tick x a d :: rest) :
    takeOp s = Taken.ofDecoded (decode (.sample x)) { s with input := rest, dtmfActive := a, dtmfSample := d } := by
  unfold takeOp
  rw [if_pos hb, hin]

/-- Settles O6: the operation is taken with the input it came in, and the step is its meaning. -/
theorem stepRunsDecodedOperation : Obligations.StepRunsDecodedOperation := by
  refine ⟨fun s w rest i hb hin hdec => ?_, fun s x a d rest i hb hin hdec => ?_⟩
  · have htake := takeOp_command hb hin
    rw [hdec] at htake
    exact step_of_takeOp_instr htake
  · have htake := takeOp_tick hb hin
    rw [hdec] at htake
    exact step_of_takeOp_instr htake

/-! `SETTXCAR` and `SETDIR`. -/

/-- Settles O28: the response word of the answer is 0x0000. -/
theorem settxcarWritesTheForcedCarrier : Obligations.SettxcarWritesTheForcedCarrier := fun _ _ => rfl

/-- `CFG_DIR` as `SETDIR a, r` writes it (rules R24 and R271). -/
theorem cfgDir_of_bits (a r : Bool) :
    (BitVec.ofBool r ++ BitVec.ofBool a).getLsbD 0 = a ∧ (BitVec.ofBool r ++ BitVec.ofBool a).getLsbD 1 = r := by
  cases a <;> cases r <;> decide

/-- The transmitter's ToneSet by the two bits of `CFG_DIR` (rule R46). -/
theorem txTones_of_cfgDir {s : State} {a r : Bool} (ha : s.answer = a) (hr : s.reversed = r) :
    s.txTones = if (a ^^ r) then s.profile.answering else s.profile.originating := by
  subst ha hr
  rfl

/-- The receiver's ToneSet is the other one (rule R46). -/
theorem rxTones_of_cfgDir {s : State} {a r : Bool} (ha : s.answer = a) (hr : s.reversed = r) :
    s.rxTones = if (a ^^ r) then s.profile.originating else s.profile.answering := by
  subst ha hr
  rfl

/-- Settles O26: the state left is `Reconfigure` of the state with `CFG_DIR` written, whose bits assign the ToneSets. -/
theorem setdirSelectsAndReconfigures : Obligations.SetdirSelectsAndReconfigures := by
  intro a r s hdl
  obtain ⟨ha, hr⟩ := cfgDir_of_bits a r
  exact ⟨_, rfl,
    ⟨_, ha, hr, reconfiguredFrom_reconfigure_respond (s := { s with cfgDir := BitVec.ofBool r ++ BitVec.ofBool a }) hdl⟩,
    txTones_of_cfgDir ha hr, rxTones_of_cfgDir ha hr, rfl, rfl, rfl, rfl⟩

/-! `STATUS`. -/

/-- A concatenation as a number: the upper part above the lower one. -/
theorem toNat_append_eq_add {m n : Nat} (x : BitVec m) (y : BitVec n) :
    (x ++ y).toNat = 2 ^ n * x.toNat + y.toNat := by
  rw [BitVec.toNat_append, ← Nat.shiftLeft_add_eq_or_of_lt y.isLt, Nat.shiftLeft_eq, Nat.mul_comm]

theorem toNat_ofBool_eq_bitVal (b : Bool) : (BitVec.ofBool b).toNat = bitVal b := by
  cases b <;> rfl

/-- Status page 0 as a number (rule R50). -/
theorem page0_toNat (s : State) :
    s.page0.toNat =
      s.rxState.code.toNat + 8 * s.txState.code.toNat + 64 * bitVal s.carrierLocked + 128 * bitVal s.txActive := by
  simp only [State.page0, toNat_append_eq_add, toNat_ofBool_eq_bitVal]
  omega

/-- Status page 1 as a number (rule R50). -/
theorem page1_toNat (s : State) :
    s.page1.toNat =
      bitVal s.txCarrierOn + 2 * bitVal s.acqFailed + 4 * bitVal s.dialMode + 8 * bitVal s.txEmpty +
        16 * bitVal s.txFull + 32 * bitVal s.rxEmpty + 64 * bitVal s.rxFull := by
  simp only [State.page1, toNat_append_eq_add, toNat_ofBool_eq_bitVal, BitVec.toNat_ofNat]
  omega

/-- Status page 2 as a number (rule R50). -/
theorem page2_toNat (s : State) :
    s.page2.toNat =
      s.cfgProfile.toNat + 2 * s.cfgDir.toNat + 8 * bitVal (s.cfgDir.getLsbD 0 ^^ s.cfgDir.getLsbD 1) := by
  simp only [State.page2, State.eff, State.answer, State.reversed, toNat_append_eq_add, toNat_ofBool_eq_bitVal,
    BitVec.toNat_ofNat]
  omega

/-- A response with neither `ERR` nor `FLAG` is its `DATA` (rule R84). -/
theorem responseWord_plain_toNat (data : Byte) : (responseWord false false data).toNat = data.toNat :=
  responseWord_toNat false false data

/-- Settles O31: the answer of a legal page is the page as its number, and page 3 is refused by `execStatus`. -/
theorem statusReadsThePages : Obligations.StatusReadsThePages := by
  refine ⟨rfl, rfl, fun s => ⟨?_, ?_, ?_, rfl⟩⟩
  · exact ⟨_, rfl, rfl, (responseWord_plain_toNat s.page0).trans (page0_toNat s)⟩
  · exact ⟨_, rfl, rfl, (responseWord_plain_toNat s.page1).trans (page1_toNat s)⟩
  · exact ⟨_, rfl, rfl, (responseWord_plain_toNat s.page2).trans (page2_toNat s)⟩

end Sys2Proof.Machine
end

section
/-! The memories and what the two agents leave alone: the reading commands, the delay line, and the frames of a TICK and of
the host commands (20_memory.md rules R63, R68 and R71). -/

namespace Sys2Proof.Machine

/-! The reading commands. -/

/-- A reading command writes the response alone (rule R68). -/
theorem exec_reading_answers {i : Instr} (hi : readingCommand i) (s : State) :
    ∃ err flag d, exec i s = .next (s.respond err flag d) := by
  cases i with
  | nop => exact ⟨_, _, _, rfl⟩
  | rxpeek => exact ⟨_, _, _, rfl⟩
  | fifolen f =>
    obtain ⟨flag, d, h⟩ := execFifolen_answers f s
    exact ⟨_, flag, d, h⟩
  | status g =>
    obtain ⟨err, d, h⟩ := execStatus_answers g s
    exact ⟨err, _, d, h⟩
  | cfgrd k => exact ⟨_, _, _, rfl⟩
  | _ => exact hi.elim

/-- A reading command does not read the response that it overwrites (rule R68). -/
theorem exec_reading_respond {i : Instr} (hi : readingCommand i) (s : State) (err flag : Bool) (d : Byte) :
    exec i (s.respond err flag d) = exec i s := by
  cases i with
  | nop => rfl
  | rxpeek => rfl
  | fifolen f => cases f <;> rfl
  | status g => rfl
  | cfgrd k => cases k <;> rfl
  | _ => exact hi.elim

/-- Settles O20: a reading command answers from what it leaves alone, so the second answer is the first. -/
theorem readingCommandsAreIdempotent : Obligations.ReadingCommandsAreIdempotent := by
  refine ⟨fun _ => rfl, fun i s hi => ?_⟩
  obtain ⟨err, flag, d, h⟩ := exec_reading_answers hi s
  exact ⟨s.respond err flag d, h, rfl, (exec_reading_respond hi s err flag d).trans h⟩

/-! The delay line. -/

/-- The live delay-line entries, oldest first (rule R63). -/
def State.liveLine (s : State) : List Byte := (List.range s.queuelen).map s.dlRead

@[simp] theorem State.liveLine_length (s : State) : s.liveLine.length = s.queuelen := by
  simp [State.liveLine]

theorem State.liveLine_getElem (s : State) {k : Nat} (hk : k < s.liveLine.length) : s.liveLine[k] = s.dlRead k := by
  simp [State.liveLine]

/-- No TICK writes what `QUEUELEN` is derived from (rules R46 and R71). -/
theorem afterTick_queuelen (x : Byte) (s : State) : (s.afterTick x).queuelen = s.queuelen := by
  rw [afterTick_frame]; rfl

/-- A TICK pops the oldest live entry and pushes its sample as the newest (rules R63 and R212). -/
theorem afterTick_liveLine (x : Byte) {s : State} (hb : s.build.legal = true) (h : s.MemInv) :
    (s.afterTick x).liveLine = (s.liveLine ++ [x]).drop 1 := by
  obtain ⟨_, _, hdl⟩ := h
  obtain ⟨_, hq⟩ := queuelen_range hb
  have hread (k : Nat) : (s.afterTick x).dlRead k = memRead dlFill (delayPush s.queuelen s.dl x) k := by
    rw [State.dlRead, afterTick_dl]
  refine List.ext_getElem (by simp [afterTick_queuelen]) fun k hk _ => ?_
  rw [State.liveLine_length, afterTick_queuelen] at hk
  rw [State.liveLine_getElem, hread, List.getElem_drop]
  rcases Nat.lt_or_ge (k + 1) s.queuelen with hlt | hge
  · rw [memRead_delayPush_lt x hdl hq hlt]
    simp [Nat.add_comm 1 k, hlt, List.getElem_append_left, State.liveLine_getElem, State.dlRead]
  · rw [memRead_delayPush_last x hdl hq (by omega)]
    simp [List.getElem_append_right, hge, Nat.add_comm 1 k]

/-- A run shifts its samples into the live entries, one place each. -/
theorem tickRun_liveLine (xs : List Byte) {s : State} (hb : s.build.legal = true) (h : s.MemInv) :
    (tickRun xs s).liveLine = (s.liveLine ++ xs).drop xs.length := by
  induction xs generalizing s with
  | nil => simp [tickRun_nil]
  | cons x xs ih =>
    have hb' : (s.afterTick x).build.legal = true := by rw [afterTick_build]; exact hb
    calc (tickRun (x :: xs) s).liveLine
        = (tickRun xs (s.afterTick x)).liveLine := by rw [tickRun_cons]
      _ = ((s.liveLine ++ [x]).drop 1 ++ xs).drop xs.length := by
          rw [ih hb' (memInv_afterTick x hb h), afterTick_liveLine x hb h]
      _ = ((s.liveLine ++ [x] ++ xs).drop 1).drop xs.length := by
          rw [List.drop_append_of_le_length (l₁ := s.liveLine ++ [x]) (by simp)]
      _ = (s.liveLine ++ x :: xs).drop (x :: xs).length := by simp [Nat.add_comm]

/-- Settles O41: the run drops as many entries as there were live ones and samples before, so the last samples are left. -/
theorem delayLineHoldsTheLastSamples : Obligations.DelayLineHoldsTheLastSamples := by
  intro s before xs hb h hlen k hk
  have hline : (tickRun (before ++ xs) s).liveLine = xs := by
    rw [tickRun_liveLine _ hb h, ← List.append_assoc]
    exact List.drop_left' (by simp [hlen, Nat.add_comm])
  have hk' : k < (tickRun (before ++ xs) s).liveLine.length := by rw [hline, hlen]; exact hk
  rw [← State.liveLine_getElem _ hk', List.getElem_eq_getD 0, hline]

/-! What a TICK leaves alone. -/

/-- No TICK writes the forced carrier, the response or the inputs (rules R71 and R113). -/
theorem afterTick_ports (x : Byte) (s : State) :
    (s.afterTick x).txCarrierOn = s.txCarrierOn ∧ (s.afterTick x).rsp = s.rsp ∧ (s.afterTick x).input = s.input ∧
      (s.afterTick x).dtmfActive = s.dtmfActive ∧ (s.afterTick x).dtmfSample = s.dtmfSample := by
  rw [afterTick_frame]
  exact ⟨rfl, rfl, rfl, rfl, rfl⟩

/-- The modulator does not write `DIAL_MODE`, and outside dial mode it is what runs (rule R111). -/
theorem tickTransmit_dialMode_off {s : State} (hd : s.dialMode = false) : (tickTransmit s).dialMode = false := by
  unfold tickTransmit
  rw [hd, if_neg Bool.false_ne_true, modStep_frame]
  rfl

theorem afterTick_txf (x : Byte) (s : State) : (s.afterTick x).txf = (tickTransmit s).txf :=
  congrArg TxView.txf (afterTick_txView x s)

/-- A TICK writes neither the host's index of the RX FIFO nor any entry of its buffer but the one at `RXF_IN`
(rules R71 and R144). -/
theorem afterTick_rxf_host (x : Byte) (s : State) :
    (s.afterTick x).rxf.outIdx = s.rxf.outIdx ∧
      ∀ a, a ≠ s.rxf.inPos s.build.rxFifoBits →
        memRead fifoFill (s.afterTick x).rxf.buf a = memRead fifoFill s.rxf.buf a := by
  rcases afterTick_rxf x s with e | ⟨_, e⟩ <;> rw [e]
  · exact ⟨rfl, fun _ _ => rfl⟩
  · exact ⟨Fifo.push_outIdx _ _ _, fun _ ha => Fifo.push_read_other _ _ ha⟩

theorem afterTick_dlRead_other (x : Byte) {s : State} {a : Nat} (ha : s.queuelen ≤ a) (hq : 1 ≤ s.queuelen) :
    (s.afterTick x).dlRead a = s.dlRead a := by
  rw [State.dlRead, afterTick_dl]
  exact memRead_delayPush_ge s.dl x ha hq

/-- Settles O51: a TICK pops the TX FIFO at most, pushes into the RX FIFO at most, and shifts the live entries. -/
theorem tickFrame : Obligations.TickFrame := by
  intro x s t h
  obtain rfl := exec_tick_inv h
  obtain ⟨hcar, hrsp, hin, hact, hsam⟩ := afterTick_ports x s
  obtain ⟨hidx, hbuf⟩ := tickTransmit_txf_host s
  obtain ⟨hout, hrx⟩ := afterTick_rxf_host x s
  rw [← afterTick_txf x s] at hidx hbuf
  exact ⟨afterTick_build x s, afterTick_controlView x s, hcar, hrsp, hin, hact, hsam,
    fun hd => (afterTick_dialMode x s).trans (tickTransmit_dialMode_off hd),
    hidx, hbuf, hout, hrx, fun _ => afterTick_dlRead_other x⟩

/-! What no host command writes. -/

/-- The fields that an effect of a host command can write (rules R71 and R266). -/
theorem HostEffect.frame {s u : State} (h : HostEffect s u) :
    u = { s with cfgProfile := u.cfgProfile, cfgDir := u.cfgDir, cfgCdTenths := u.cfgCdTenths,
                 cfgLossTenths := u.cfgLossTenths, cfgWaitSeconds := u.cfgWaitSeconds, cfgOpt := u.cfgOpt,
                 txCarrierOn := u.txCarrierOn, dialMode := u.dialMode, rxState := u.rxState,
                 carrierLocked := u.carrierLocked, cdStreak := u.cdStreak, waitCnt := u.waitCnt, lossCnt := u.lossCnt,
                 acqFailed := u.acqFailed, txf := u.txf, rxf := u.rxf, dl := u.dl } := by
  cases h with
  | acquire => rw [acquire_frame]
  | _ => rfl

/-- The host pops and clears the RX FIFO, and writes no entry of it (rules R145 and R147). -/
theorem HostEffect.rxf_buf {s u : State} (h : HostEffect s u) : u.rxf.buf = s.rxf.buf := by
  cases h with
  | pop => exact Fifo.pop_buf _ _
  | clear t r => cases r <;> rfl
  | acquire => rw [acquire_frame]
  | _ => rfl

/-- `ACKNC` writes `RX_STATE` and the response alone (rule R274). -/
theorem execAcknc_frame {s t : State} (h : execAcknc s = .next t) :
    t = { s with rxState := t.rxState, rsp := t.rsp } := by
  unfold execAcknc at h
  split at h <;> cases h <;> rfl

/-- `DIAL` writes `DIAL_MODE` and the response alone (rule R196). -/
theorem execDial_frame {v : Bool} {s t : State} (h : execDial v s = .next t) :
    t = { s with dialMode := t.dialMode, rsp := t.rsp } := by
  unfold execDial at h
  split at h
  · split at h
    · cases h; rfl
    · split at h <;> cases h <;> rfl
  · cases h; rfl

/-- Of the host commands, `TXPUSH` alone stores into the TX buffer (rule R151), and the two that run `Reconfigure` alone
write the delay line (rule R266). -/
theorem exec_memory_writers {i : Instr} {s t : State} (hi : ∀ x, i ≠ .tick x) (h : exec i s = .next t) :
    ((∀ b, i ≠ .txpush b) → t.txf.buf = s.txf.buf) ∧
      ((∀ p, i ≠ .setprofile p) → (∀ a r, i ≠ .setdir a r) → t.dl = s.dl) := by
  cases i with
  | tick x => exact absurd rfl (hi x)
  | txpush b => cases h; exact ⟨fun hb => absurd rfl (hb b), fun _ _ => rfl⟩
  | setprofile p => cases h; exact ⟨fun _ => rfl, fun hp _ => absurd rfl (hp p)⟩
  | setdir a r => cases h; exact ⟨fun _ => rfl, fun _ hd => absurd rfl (hd a r)⟩
  | fifoclr tx rx => cases h; exact ⟨fun _ => by cases tx <;> rfl, fun _ _ => rfl⟩
  | fifolen f =>
    obtain ⟨flag, d, e⟩ := execFifolen_answers f s
    cases e.symm.trans h; exact ⟨fun _ => rfl, fun _ _ => rfl⟩
  | setrxcar v =>
    cases v with
    | false => cases h; exact ⟨fun _ => rfl, fun _ _ => rfl⟩
    | true => cases h; rw [acquire_frame]; exact ⟨fun _ => rfl, fun _ _ => rfl⟩
  | acknc => rw [execAcknc_frame h]; exact ⟨fun _ => rfl, fun _ _ => rfl⟩
  | status g =>
    obtain ⟨err, d, e⟩ := execStatus_answers g s
    cases e.symm.trans h; exact ⟨fun _ => rfl, fun _ _ => rfl⟩
  | dial v => rw [execDial_frame h]; exact ⟨fun _ => rfl, fun _ _ => rfl⟩
  | _ => cases h; exact ⟨fun _ => rfl, fun _ _ => rfl⟩

/-- Settles O52: the effects name the fields that a host command can write; which command writes a memory is read off the
commands one by one. -/
theorem hostCommandFrame : Obligations.HostCommandFrame := by
  intro i s t hi h
  obtain ⟨htx, hdl⟩ := exec_memory_writers hi h
  obtain ⟨u, err, flag, d, hu, e⟩ := exec_hostEffect hi s
  obtain rfl := Host.Outcome.next.inj (e.symm.trans h)
  have hbuf : (u.respond err flag d).rxf.buf = s.rxf.buf := hu.rxf_buf
  refine ⟨hu.build, hu.txView, ?_, ?_, ?_, ?_, ?_, ?_, ?_, ?_, ?_, ?_, hbuf, htx, hdl⟩ <;> (rw [hu.frame]; rfl)

end Sys2Proof.Machine
end

section
/-! The encoding statements: each command word against the opcode map, read row by row through `op` and the number of
operand values that the row admits (30_encoding.md rules R81, R86 to R88 and R93). -/

namespace Sys2Proof

open Machine Laws

/-! The rows of the opcode map. -/

/-- The `op` of a row of the opcode map, as a number. -/
def Row.op (r : Row) : Nat := opOf r.bits

/-- The values of `op` in the opcode map of rule R86. -/
def mappedOps : List Nat := opcodeTable.map Row.op

theorem opOf_lt (w : Word) : opOf w < 256 := by
  have := w.isLt
  unfold opOf; omega

theorem Row.op_lt (r : Row) : r.op < 256 := opOf_lt r.bits

theorem opOf_wordOf (op imm : Byte) : opOf (wordOf op imm) = op.toNat := by
  have := imm.isLt
  unfold opOf; rw [wordOf_toNat]; omega

theorem immOf_wordOf (op imm : Byte) : immOf (wordOf op imm) = imm.toNat := by
  have := imm.isLt
  unfold immOf; rw [wordOf_toNat]; omega

theorem shiftRight_eq_iff_opOf (v w : Word) : v >>> 8 = w >>> 8 ↔ opOf v = opOf w := by
  rw [← BitVec.toNat_inj, BitVec.toNat_ushiftRight, BitVec.toNat_ushiftRight, Nat.shiftRight_eq_div_pow,
    Nat.shiftRight_eq_div_pow]
  rfl

/-- The ranges of rule R88 are what the opcode map leaves out. -/
theorem unusedOp_iff {op : Nat} (h : op < 256) : unusedOp op ↔ op ∉ mappedOps := by
  have : mappedOps = [0x00, 0x01, 0x02, 0x03, 0x04, 0x05, 0x10, 0x11, 0x12, 0x13, 0x14, 0x15, 0x20, 0x21, 0x22, 0x23,
    0x24, 0x30] := by decide
  simp only [this, unusedOp, List.mem_cons, List.not_mem_nil, or_false]
  omega

/-- No two rows have the same `op`, so no word is selected by two rows. -/
theorem row_eq_of_op_eq {r r' : Row} (hr : r ∈ opcodeTable) (hr' : r' ∈ opcodeTable) (h : r.op = r'.op) : r = r' := by
  have hnodup : mappedOps.Nodup := by decide
  obtain ⟨j, hj, rfl⟩ := List.getElem_of_mem hr
  obtain ⟨k, hk, rfl⟩ := List.getElem_of_mem hr'
  have hlen : mappedOps.length = opcodeTable.length := List.length_map _
  have hget : ∀ (n : Nat) (hn : n < opcodeTable.length), mappedOps[n]'(hlen ▸ hn) = opcodeTable[n].op :=
    fun n hn => List.getElem_map _
  obtain rfl : j = k := (List.getElem_inj hnodup).mp ((hget j hj).trans (h.trans (hget k hk).symm))
  rfl

theorem immSize_mem (op : Nat) : immSize op ∈ [1, 2, 4, 256] := by
  unfold immSize
  split
  · decide
  · split
    · decide
    · split <;> decide

/-- A row's word is its `op` with no operand, and its mask covers the bits above the operand field. -/
theorem row_words : ∀ r ∈ opcodeTable,
    r.bits = wordOf (.ofNat 8 r.op) 0 ∧ r.mask = wordOf 0xFF (.ofNat 8 (256 - immSize r.op)) := by decide

/-- The bits above an operand field are 0 exactly when the operand is below the number of its values. -/
theorem and_mask_eq_zero_iff : ∀ n ∈ [1, 2, 4, 256], ∀ imm : Byte,
    imm &&& .ofNat 8 (256 - n) = 0 ↔ imm.toNat < n := by decide

/-- A row selects the words with its `op` and one of the operand values it admits (rules R86 and R87). -/
theorem selects_iff {r : Row} (hr : r ∈ opcodeTable) (w : Word) :
    r.selects w = true ↔ opOf w = r.op ∧ immOf w < immSize r.op := by
  obtain ⟨op, imm, rfl⟩ := exists_wordOf w
  obtain ⟨hbits, hmask⟩ := row_words r hr
  have hop : op = .ofNat 8 r.op ↔ op.toNat = r.op := by
    rw [← BitVec.toNat_inj, BitVec.toNat_ofNat, Nat.mod_eq_of_lt r.op_lt]
  have hsel : r.selects (wordOf op imm) = (op == .ofNat 8 r.op && imm &&& .ofNat 8 (256 - immSize r.op) == 0) := by
    rw [← selects_wordOf r.mnemonic _ _ _ _ r.read, ← hbits, ← hmask]
  rw [hsel, Bool.and_eq_true, beq_iff_eq, beq_iff_eq, hop, and_mask_eq_zero_iff _ (immSize_mem _), opOf_wordOf,
    immOf_wordOf]

/-! The verdict on a command word. -/

/-- The row that selects a word is the one that decoding finds. -/
theorem find?_selects {r : Row} (hr : r ∈ opcodeTable) {w : Word} (h : r.selects w = true) :
    opcodeTable.find? (fun r => r.selects w) = some r := by
  have hsome : (opcodeTable.find? (fun r => r.selects w)).isSome = true := by
    rw [List.find?_isSome]; exact ⟨r, hr, h⟩
  obtain ⟨r', hfind⟩ := Option.isSome_iff_exists.mp hsome
  have hr' := List.mem_of_find?_eq_some hfind
  have hsel : r'.selects w = true := List.find?_some (p := fun r : Row => r.selects w) hfind
  have hop := ((selects_iff hr' w).mp hsel).1
  rw [hfind, row_eq_of_op_eq hr' hr (hop.symm.trans ((selects_iff hr w).mp h).1)]

/-- Only `STATUS` reads operations that are not well-formed, those of page 3. -/
theorem reservedPage_eq_not_wellFormed {r : Row} (hr : r ∈ opcodeTable) (w : Word) :
    (r.mnemonic == "STATUS" && wordIndex w == 3) = !(r.read w).wellFormed := by
  have hstatus : (wordIndex w == 3) = !(Instr.status (wordIndex w)).wellFormed := (Bool.not_not _).symm
  revert r
  simp only [opcodeTable_eq, List.forall_mem_cons, List.not_mem_nil, false_implies, implies_true, and_true]
  exact ⟨rfl, rfl, rfl, rfl, rfl, rfl, rfl, rfl, rfl, rfl, rfl, hstatus, rfl, rfl, rfl, rfl, rfl, rfl⟩

/-- A word that a row selects is the operation the row reads, or the reserved page (rules R87 and R88). -/
theorem decodeCommand_of_selects {r : Row} (hr : r ∈ opcodeTable) {w : Word} (h : r.selects w = true) :
    decodeCommand w = if (r.read w).wellFormed then .instr (r.read w) else .rejected .reservedPage := by
  simp only [decodeCommand, find?_selects hr h, reservedPage_eq_not_wellFormed hr]
  cases (r.read w).wellFormed <;> rfl

/-- A word that no row selects has an unused `op`, or reserved bits of a used one (rule R88). -/
theorem decodeCommand_of_not_selects {w : Word} (h : ∀ r ∈ opcodeTable, ¬ r.selects w = true) :
    decodeCommand w = .rejected (if opOf w ∈ mappedOps then .reservedBits else .illegalOpcode) := by
  have hany : opcodeTable.any (fun r => r.bits >>> 8 == w >>> 8) = true ↔ opOf w ∈ mappedOps := by
    simp only [List.any_eq_true, beq_iff_eq, shiftRight_eq_iff_opOf, mappedOps, List.mem_map, Row.op]
  simp only [decodeCommand, List.find?_eq_none.mpr h, hany]

/-- Decoding of a command word by rows: some row selects it and reads a well-formed operation. -/
theorem decodeCommand_eq_instr_iff (w : Word) (i : Instr) :
    decodeCommand w = .instr i ↔
      ∃ r ∈ opcodeTable, r.selects w = true ∧ r.read w = i ∧ i.wellFormed = true := by
  constructor
  · intro h
    by_cases hex : ∃ r ∈ opcodeTable, r.selects w = true
    · obtain ⟨r, hr, hsel⟩ := hex
      rw [decodeCommand_of_selects hr hsel] at h
      split at h
      next hwf => cases h; exact ⟨r, hr, hsel, rfl, hwf⟩
      next => cases h
    · rw [decodeCommand_of_not_selects (fun r hr hs => hex ⟨r, hr, hs⟩)] at h
      cases h
  · rintro ⟨r, hr, hsel, rfl, hwf⟩
    rw [decodeCommand_of_selects hr hsel, if_pos hwf]

/-! Encoding and decoding undo each other. -/

/-- Every operation has its row of the opcode map, or is a sample. -/
theorem opcodeRow (i : Instr) : OpcodeRow.Statement i := by
  cases i with
  | nop => exact OpcodeRow.nop
  | txpush b => exact OpcodeRow.txpush b
  | rxpop => exact OpcodeRow.rxpop
  | rxpeek => exact OpcodeRow.rxpeek
  | fifolen f => exact OpcodeRow.fifolen f
  | fifoclr t r => exact OpcodeRow.fifoclr t r
  | setprofile p => exact OpcodeRow.setprofile p
  | setdir a r => exact OpcodeRow.setdir a r
  | settxcar v => exact OpcodeRow.settxcar v
  | setrxcar v => exact OpcodeRow.setrxcar v
  | acknc => exact OpcodeRow.acknc
  | status g => exact OpcodeRow.status g
  | setcdt n => exact OpcodeRow.setcdt n
  | setloss n => exact OpcodeRow.setloss n
  | setwait n => exact OpcodeRow.setwait n
  | setopt g u => exact OpcodeRow.setopt g u
  | cfgrd k => exact OpcodeRow.cfgrd k
  | dial v => exact OpcodeRow.dial v
  | tick s => exact OpcodeRow.tick s

/-- Settles O1: the row that reads the operation back from its word is the one that decoding finds. -/
theorem decodeOfEncodeIsIdentity : Obligations.DecodeOfEncodeIsIdentity := by
  intro i hwf
  have hrow := opcodeRow i
  unfold OpcodeRow.Statement at hrow
  cases hi : encode i with
  | command w =>
    simp only [hi] at hrow
    obtain ⟨k, r, hk, hsel, hread⟩ := hrow
    exact (decodeCommand_eq_instr_iff w i).mpr ⟨r, List.mem_of_getElem? hk, hsel, hread, hwf⟩
  | sample b =>
    simp only [hi] at hrow
    rw [hrow]; rfl

/-- The rows with an operand of at most two bits: their words are few. -/
theorem encode_read_narrow : ∀ r ∈ opcodeTable, immSize r.op ≠ 256 → ∀ k < immSize r.op,
    encode (r.read (wordOf (.ofNat 8 r.op) (.ofNat 8 k))) = .command (wordOf (.ofNat 8 r.op) (.ofNat 8 k)) := by
  decide

/-- The rows whose operand is the whole of `imm`. -/
theorem encode_read_wide {r : Row} (hr : r ∈ opcodeTable) (hsize : immSize r.op = 256) (imm : Byte) :
    encode (r.read (wordOf (.ofNat 8 r.op) imm)) = .command (wordOf (.ofNat 8 r.op) imm) := by
  have hwide : opcodeTable.filter (fun r => immSize r.op = 256) =
      [opcodeTable[1], opcodeTable[12], opcodeTable[13], opcodeTable[14]] := rfl
  have hmem : r ∈ opcodeTable.filter (fun r => immSize r.op = 256) := by simp [hr, hsize]
  simp only [hwide, List.mem_cons, List.not_mem_nil, or_false] at hmem
  rcases hmem with rfl | rfl | rfl | rfl <;>
    exact congrArg (fun b => PortWord.command (wordOf _ b)) (wordImm_wordOf _ imm)

/-- What a row reads from a word it selects is encoded as that word: no bit is dropped (rule R86). -/
theorem encode_read {r : Row} (hr : r ∈ opcodeTable) {w : Word} (h : r.selects w = true) :
    encode (r.read w) = .command w := by
  obtain ⟨op, imm, rfl⟩ := exists_wordOf w
  obtain ⟨hop, himm⟩ := (selects_iff hr _).mp h
  rw [opOf_wordOf] at hop
  rw [immOf_wordOf] at himm
  obtain rfl : op = .ofNat 8 r.op := by rw [← hop, BitVec.ofNat_toNat, BitVec.setWidth_eq]
  by_cases hsize : immSize r.op = 256
  · exact encode_read_wide hr hsize imm
  · simpa using encode_read_narrow r hr hsize imm.toNat himm

/-- Settles O2: the row that read the operation had selected the word, whose reserved bits are therefore 0. -/
theorem decodedWordsReencode : Obligations.DecodedWordsReencode := by
  intro p i h
  cases p with
  | command w =>
    obtain ⟨r, hr, hsel, rfl, hwf⟩ := (decodeCommand_eq_instr_iff w i).mp h
    exact ⟨encode_read hr hsel, hwf⟩
  | sample b => cases h; exact ⟨rfl, rfl⟩

/-! The illegal words, and how many words are legal. -/

/-- The only operation that is not well-formed is the one whose word is 0x1503 (rule R88). -/
theorem encode_of_not_wellFormed {i : Instr} (h : ¬ i.wellFormed = true) : encode i = .command 0x1503 := by
  cases i with
  | status g =>
    obtain rfl : g = 3 := by simpa [Instr.wellFormed] using h
    rfl
  | _ => exact absurd rfl h

/-- A word is selected by a row exactly when the opcode map has its `op` and admits its operand. -/
theorem exists_selects_iff (w : Word) :
    (∃ r ∈ opcodeTable, r.selects w = true) ↔ opOf w ∈ mappedOps ∧ immOf w < immSize (opOf w) := by
  constructor
  · rintro ⟨r, hr, hsel⟩
    obtain ⟨hop, himm⟩ := (selects_iff hr w).mp hsel
    rw [hop]
    exact ⟨List.mem_map_of_mem hr, himm⟩
  · rintro ⟨hop, himm⟩
    obtain ⟨r, hr, hr'⟩ := List.mem_map.mp hop
    exact ⟨r, hr, (selects_iff hr w).mpr ⟨hr'.symm, by rw [hr']; exact himm⟩⟩

/-- A command word is legal when its `op` is mapped, its operand admitted, and its page not the reserved one. -/
theorem decodeCommand_legal {w : Word} (hop : opOf w ∈ mappedOps) (himm : immOf w < immSize (opOf w))
    (hpage : w ≠ 0x1503) : ∃ i, decodeCommand w = .instr i := by
  obtain ⟨r, hr, hsel⟩ := (exists_selects_iff w).mpr ⟨hop, himm⟩
  have hwf : (r.read w).wellFormed = true := Decidable.byContradiction fun hwf =>
    hpage (PortWord.command.inj ((encode_read hr hsel).symm.trans (encode_of_not_wellFormed hwf)))
  exact ⟨r.read w, by rw [decodeCommand_of_selects hr hsel, if_pos hwf]⟩

/-- A command word that no row selects is illegal by its `op` or by its reserved bits. -/
theorem decodeCommand_illegal {w : Word} (h : ¬ (opOf w ∈ mappedOps ∧ immOf w < immSize (opOf w))) :
    decodeCommand w = .rejected (if opOf w ∈ mappedOps then .reservedBits else .illegalOpcode) :=
  decodeCommand_of_not_selects fun r hr hsel => h ((exists_selects_iff w).mp ⟨r, hr, hsel⟩)

/-- Settles O3: a word is selected by the row of its `op` unless the reserved bits are not 0. -/
theorem everyCommandWordHasItsVerdict : Obligations.EveryCommandWordHasItsVerdict := by
  intro w
  rw [unusedOp_iff (opOf_lt w), Decidable.not_not]
  refine ⟨fun hop => ?_, fun hop himm => ?_, fun hw => by rw [hw]; decide, decodeCommand_legal⟩
  · rw [decodeCommand_illegal fun h => hop h.1, if_neg hop]
  · rw [decodeCommand_illegal fun h => by omega, if_pos hop]

theorem eq_reservedPage_iff (w : Word) : w = 0x1503 ↔ opOf w = 0x15 ∧ immOf w = 3 := by
  rw [← BitVec.toNat_inj]
  change w.toNat = 0x1503 ↔ _
  unfold opOf immOf
  omega

theorem decodeCommand_isSome_iff (w : Word) :
    (decodeCommand w).toOption.isSome = true ↔
      (opOf w ∈ mappedOps ∧ immOf w < immSize (opOf w)) ∧ ¬ (opOf w = 0x15 ∧ immOf w = 3) := by
  rw [← eq_reservedPage_iff]
  by_cases hsel : opOf w ∈ mappedOps ∧ immOf w < immSize (opOf w)
  · by_cases hpage : w = 0x1503
    · subst hpage; decide
    · obtain ⟨i, hi⟩ := decodeCommand_legal hsel.1 hsel.2 hpage
      exact iff_of_true (by rw [hi]; rfl) ⟨hsel, hpage⟩
  · rw [decodeCommand_illegal hsel]
    exact iff_of_false Bool.false_ne_true fun h => hsel h.1

/-- How many operand values are legal for an `op`: of the four of `STATUS`, the last is the reserved page. -/
def legalImms (op : Nat) : Nat :=
  if op ∈ mappedOps then (if op = 0x15 then 3 else immSize op) else 0

theorem legalImms_of_unusedOp {op : Nat} (hop : op < 256) (h : unusedOp op) : legalImms op = 0 :=
  if_neg ((unusedOp_iff hop).mp h)

theorem legalImms_le (op : Nat) : legalImms op ≤ 256 := by
  have hsize := immSize_mem op
  simp only [List.mem_cons, List.not_mem_nil, or_false] at hsize
  unfold legalImms
  split
  · split <;> omega
  · omega

/-- The legal operand values of an `op` are the first ones. -/
theorem decodeTableWord_isSome_iff {op imm : Nat} (hop : op < 256) (himm : imm < 256) :
    (decodeTableWord 16 (256 * op + imm)).isSome = true ↔ imm < legalImms op := by
  have hw : (BitVec.ofNat 16 (256 * op + imm)).toNat = 256 * op + imm := by
    rw [BitVec.toNat_ofNat]; omega
  have hopOf : opOf (BitVec.ofNat 16 (256 * op + imm)) = op := by unfold opOf; omega
  have himmOf : immOf (BitVec.ofNat 16 (256 * op + imm)) = imm := by unfold immOf; omega
  refine (decodeCommand_isSome_iff _).trans ?_
  rw [hopOf, himmOf]
  unfold legalImms
  by_cases hmapped : op ∈ mappedOps
  · simp only [hmapped, true_and, if_true]
    by_cases hpage : op = 0x15
    · rw [hpage, if_pos rfl, show immSize 0x15 = 4 from rfl]; omega
    · rw [if_neg hpage]
      exact ⟨fun h => h.1, fun h => ⟨h, fun hlast => hpage hlast.1⟩⟩
  · rw [if_neg hmapped]
    exact iff_of_false (fun h => hmapped h.1.1) (Nat.not_lt_zero imm)

theorem countP_lt_range {k n : Nat} (h : k ≤ n) : (List.range n).countP (fun i => i < k) = k := by
  obtain ⟨m, rfl⟩ := Nat.exists_eq_add_of_le h
  have hbelow : (List.range k).countP (fun i => i < k) = k := by
    rw [List.countP_eq_length.mpr fun i hi => decide_eq_true (List.mem_range.mp hi), List.length_range]
  have habove : ((List.range m).map (k + ·)).countP (fun i => i < k) = 0 := by
    rw [List.countP_map]
    exact List.countP_eq_zero.mpr fun i _ => by simp only [Function.comp_apply, decide_eq_true_eq]; omega
  rw [List.range_add, List.countP_append, hbelow, habove, Nat.add_zero]

/-- The words of one `op`, counted. -/
theorem countP_decodeTableWord_block {op : Nat} (hop : op < 256) :
    ((List.range 256).map (256 * op + ·)).countP (fun n => (decodeTableWord 16 n).isSome) = legalImms op := by
  rw [List.countP_map, ← countP_lt_range (legalImms_le op)]
  refine List.countP_congr fun imm himm => ?_
  rw [decide_eq_true_iff, Function.comp_apply]
  exact decodeTableWord_isSome_iff hop (List.mem_range.mp himm)

/-- The words of the first `m` values of `op`, counted one `op` at a time. -/
theorem countP_decodeTableWord {m : Nat} (hm : m ≤ 256) :
    (List.range (256 * m)).countP (fun n => (decodeTableWord 16 n).isSome) = ((List.range m).map legalImms).sum := by
  induction m with
  | zero => rfl
  | succ m ih =>
    rw [Nat.mul_succ, List.range_add, List.countP_append, ih (by omega), countP_decodeTableWord_block (by omega),
      List.range_succ, List.map_append, List.sum_append, List.map_singleton, List.sum_singleton]

/-- The table's total: every `op` from 0x31 on is unused. -/
theorem sum_legalImms : ((List.range 256).map legalImms).sum = 1057 := by
  have hlow : ((List.range 49).map legalImms).sum = 1057 := by decide
  have hout : ∀ i ∈ List.range 207, (legalImms ∘ (49 + ·)) i = 0 := fun i hi => by
    have := List.mem_range.mp hi
    exact legalImms_of_unusedOp (op := 49 + i) (by omega) (by unfold unusedOp; omega)
  have hhigh : (((List.range 207).map (49 + ·)).map legalImms).sum = 0 := by
    rw [List.map_map, List.map_congr_left hout, List.map_const', List.sum_replicate_nat, Nat.mul_zero]
  have hsplit : List.range 256 = List.range 49 ++ (List.range 207).map (49 + ·) := List.range_add (n := 49) (m := 207)
  rw [hsplit, List.map_append, List.sum_append, hlow, hhigh]

/-- Settles O4: the legal words of each `op` are counted, and the counts are added up over the opcode map. -/
theorem legalCommandWordsNumber1057 : Obligations.LegalCommandWordsNumber1057 :=
  (countP_decodeTableWord (Nat.le_refl 256)).trans sum_legalImms

/-- Settles O5: each word is one evaluation of the decoder. -/
theorem specWordsDecode : Obligations.SpecWordsDecode := by
  unfold Obligations.SpecWordsDecode
  decide

end Sys2Proof
end

section
/-! What a TICK emits and counts inside a symbol period, and that its two parts read nothing of each other
(40_tick.md rules R111, R112 and R114, 43_modulator.md rules R170 to R174). -/

namespace Sys2Proof.Machine

/-! The output sample and the phase. -/

theorem State.toneOn_iff (s : State) : s.toneOn = true ↔ s.txActive = true ∨ s.txCarrierOn = true :=
  Bool.or_eq_true_iff

/-- The wave is read at the high byte of the phase (rule R172). -/
theorem phase_highByte (p : BitVec 16) : p.extractLsb' 8 8 = BitVec.ofNat 8 (p.toNat / 256) := by
  rw [BitVec.extractLsb', Nat.shiftRight_eq_div_pow]

theorem modOut_eq (s : State) :
    modOut s = if s.txActive = true ∨ s.txCarrierOn = true then wave (BitVec.ofNat 8 (s.txPhase.toNat / 256))
      else 0x80 := by
  simp only [modOut, State.toneOn_iff, phase_highByte]

theorem tickOut_eq (s : State) :
    tickOut s =
      (if s.dialMode = true then (if s.dtmfActive = true then s.dtmfSample else 0x80)
       else if s.txActive = true ∨ s.txCarrierOn = true then wave (BitVec.ofNat 8 (s.txPhase.toNat / 256))
       else 0x80) := by
  rw [← modOut_eq]; rfl

/-- Settles O34: the sample is `tickOut` of the state found, which is read before the phase advances. -/
theorem tickEmitsItsSample : Obligations.TickEmitsItsSample := fun x s =>
  ⟨s.afterTick x, exec_tick x s, (afterTick_txSample x s).trans (tickOut_eq s)⟩

/-- The phase accumulator as the statements write it: storing the sum in 16 bits is its wrap at 2^16 (rule R171). -/
theorem State.nextPhase_eq_phaseAfter (s : State) : s.nextPhase = phaseAfter s := by
  have hwrap (n : Nat) : wrap16 n = BitVec.ofNat 16 (n % 65536) := BitVec.eq_of_toNat_eq (by simp [wrap16])
  simp only [State.nextPhase, phaseAfter, State.toneOn_iff, hwrap, State.phaseStep]

/-- Inside a symbol period the transmit part moves the phase and the count, and takes any event off the port
(rules R112, R170 and R174). -/
theorem tickTransmit_of_midPeriod {s : State} (h : midPeriod s) :
    tickTransmit s =
      { s with dtmfSend := none, txPhase := phaseAfter s, txCnt := BitVec.ofNat 8 (s.txCnt.toNat + 1) } := by
  obtain ⟨hdial, hcnt⟩ := h
  rw [tickTransmit_mid hdial hcnt, State.nextPhase_eq_phaseAfter]
  rfl

/-- Settles O35: what a TICK shows of the transmitter is the transmit part, which does not reach the framer here. -/
theorem tickInsideASymbolPeriod : Obligations.TickInsideASymbolPeriod := by
  intro x s h
  refine ⟨s.afterTick x, exec_tick x s, ?_, ?_, ?_⟩
  · rw [afterTick_dtmfSend, tickTransmit_of_midPeriod h]
  · rw [afterTick_dialMode, tickTransmit_dialMode_off h.1]
  · rw [afterTick_txView, tickTransmit_of_midPeriod h]; rfl

/-! What the receiver reads. -/

/-- `RXTONES` is derived from the build and the control registers (rule R46). -/
theorem State.rxTones_congr {s u : State} (hb : s.build = u.build) (hc : s.controlView = u.controlView) :
    s.rxTones = u.rxTones := by
  have heff : s.eff = u.eff := congrArg (fun v : ControlView => v.cfgDir.getLsbD 0 ^^ v.cfgDir.getLsbD 1) hc
  have hselect : s.cfgProfile = u.cfgProfile := congrArg ControlView.cfgProfile hc
  have hprofile : s.profile = u.profile := by rw [State.profile, State.profile, hb, hselect]
  rw [State.rxTones, State.rxTones, heff, hprofile]

/-- The signal chain reads the build, the tones of the receiver, its own registers and the sample (rules R210 to R218). -/
theorem signalChain_congr (x : Byte) {s u : State} (hb : s.build = u.build) (ht : s.rxTones = u.rxTones)
    (hv : s.chainView = u.chainView) :
    (signalChain x s).chainView = (signalChain x u).chainView ∧
      (signalChain x s).decision = (signalChain x u).decision := by
  have hq : s.queuelen = u.queuelen := congrArg ToneSet.queuelen ht
  have hchain : (signalChain x s).chainView = (signalChain x u).chainView := by
    simp only [State.chainView, ChainView.mk.injEq] at hv
    simp only [State.chainView, signalChain, State.dlRead, hb, hq, hv]
  have hpol : (signalChain x s).polarity = (signalChain x u).polarity := congrArg ToneSet.polarity ht
  have hy : (signalChain x s).iirY1 = (signalChain x u).iirY1 := congrArg ChainView.iirY1 hchain
  exact ⟨hchain, by rw [State.decision, State.decision, hpol, hy]⟩

theorem pushHistory_chainView_congr (bit : Bool) {s u : State} (hv : s.chainView = u.chainView) :
    (pushHistory bit s).chainView = (pushHistory bit u).chainView :=
  congrArg (fun v : ChainView => { v with rxHist := (v.rxHist <<< 1) ||| BitVec.ofNat 8 (bitVal bit) }) hv

/-- The signal chain after a TICK reads nothing of the transmitter, of the framer and of the ports (rule R111). -/
theorem afterTick_chainView_congr (x : Byte) {s u : State} (hb : s.build = u.build)
    (hc : s.controlView = u.controlView) (hv : s.chainView = u.chainView) :
    (s.afterTick x).chainView = (u.afterTick x).chainView := by
  obtain ⟨hchain, hbit⟩ := signalChain_congr x hb (State.rxTones_congr hb hc) hv
  rw [afterTick_chainView, afterTick_chainView, hbit]
  exact pushHistory_chainView_congr _ hchain

/-- The framer after a TICK reads nothing of the transmitter and of the ports (rule R111). -/
theorem afterTick_framerView_congr (x : Byte) {s u : State} (hb : s.build = u.build)
    (hc : s.controlView = u.controlView) (hv : s.chainView = u.chainView) (hf : s.framerView = u.framerView) :
    (s.afterTick x).framerView = (u.afterTick x).framerView := by
  have hhist : (s.afterTick x).rxHist = (u.afterTick x).rxHist :=
    congrArg ChainView.rxHist (afterTick_chainView_congr x hb hc hv)
  rw [afterTick_framerView, afterTick_framerView, hhist]
  exact rxFrame_framerView_congr _ ⟨hb, hc, hf, rfl⟩

/-- Settles O53: a TICK is the transmit part on the state found, then the receive part, which reads none of its fields. -/
theorem receiverAndTransmitterAreIndependent : Obligations.ReceiverAndTransmitterAreIndependent := by
  constructor
  · intro x s u s' u' hb hc hv hf hs hu
    obtain rfl := exec_tick_inv hs
    obtain rfl := exec_tick_inv hu
    exact ⟨afterTick_chainView_congr x hb hc hv, afterTick_framerView_congr x hb hc hv hf⟩
  · intro x y s s' s'' hs' hs''
    obtain rfl := exec_tick_inv hs'
    obtain rfl := exec_tick_inv hs''
    simp only [afterTick_txView, afterTick_txSample, afterTick_dtmfSend, afterTick_dialMode, and_self]

end Sys2Proof.Machine
end

section
/-! The wave table and the phase steps (41_wavetable.md). -/

namespace Sys2Proof.Machine

/-! The phase step. -/

/-- Below half the sample rate the rounded quotient fits 16 bits, so the store of rule R125 does not wrap it. -/
theorem stepFor_toNat {sr f : Nat} (hsr : sr ≤ 65535) (hf : f < sr / 2) :
    (stepFor sr f).toNat = (2 * (f * 65536) + sr) / (2 * sr) ∧ (2 * (f * 65536) + sr) / (2 * sr) < 32768 := by
  have hlt : (2 * (f * 65536) + sr) / (2 * sr) < 32768 := Nat.div_lt_of_lt_mul (by omega)
  have hnum : f * cyclesLength * 2 ^ Config.phaseFrac = f * 65536 := Nat.mul_assoc f 256 256
  refine ⟨?_, hlt⟩
  rw [stepFor, hnum, wrap16, BitVec.toNat_ofNat, Nat.mod_eq_of_lt (by omega)]

/-- Settles O14: the step is the floor of the quotient plus one half, and a floor is bounded by the division law. -/
theorem stepForRoundsHalfUp : Obligations.StepForRoundsHalfUp := by
  intro sr f hlo hhi hf
  obtain ⟨hstep, hlt⟩ := stepFor_toNat hhi hf
  rw [hstep]
  have hfloor := Nat.mul_div_le (2 * (f * 65536) + sr) (2 * sr)
  have hnext := Nat.lt_mul_div_succ (2 * (f * 65536) + sr) (b := 2 * sr) (by omega)
  exact ⟨hlt, hfloor, by rwa [Nat.mul_add_one] at hnext⟩

/-! The quarter-wave table. -/

theorem waveQ_eq_quarterSine (i : Nat) : waveQ i = quarterSine.getD i 0 := rfl

/-- Every entry lies in 2..127, and the last four reach 127 (rule R120). -/
theorem waveQ_range : ∀ {i : Nat}, i < 64 → 2 ≤ waveQ i ∧ waveQ i ≤ 127 ∧ (waveQ i = 127 ↔ 60 ≤ i) := by decide

/-- The four quadrants of `Wave`, as numbers (rule R121). -/
def waveOf (q i : Nat) : Nat :=
  if q = 0 then 0x80 + waveQ i
  else if q = 1 then 0x80 + waveQ (63 - i)
  else if q = 2 then 0x80 - waveQ i
  else 0x80 - waveQ (63 - i)

theorem waveOf_zero (i : Nat) : waveOf 0 i = 0x80 + waveQ i := rfl

theorem waveOf_one (i : Nat) : waveOf 1 i = 0x80 + waveQ (63 - i) := rfl

theorem waveOf_two (i : Nat) : waveOf 2 i = 0x80 - waveQ i := rfl

theorem waveOf_three (i : Nat) : waveOf 3 i = 0x80 - waveQ (63 - i) := rfl

theorem quadrant_cases {q : Nat} (hq : q < 4) : q = 0 ∨ q = 1 ∨ q = 2 ∨ q = 3 := by omega

/-- The midline and 0 are not reached because no entry is below 2 or above 127; the extremes are the entries of 127. -/
theorem waveOf_range {q i : Nat} (hq : q < 4) (hi : i < 64) :
    waveOf q i < 256 ∧ waveOf q i ≠ 0x80 ∧ waveOf q i ≠ 0 ∧
      (waveOf q i = 255 ↔ 0x3C ≤ 64 * q + i ∧ 64 * q + i ≤ 0x43) ∧
      (waveOf q i = 1 ↔ 0xBC ≤ 64 * q + i ∧ 64 * q + i ≤ 0xC3) := by
  have hdirect := waveQ_range hi
  have hmirror := waveQ_range (i := 63 - i) (by omega)
  obtain rfl | rfl | rfl | rfl := quadrant_cases hq
  · rw [waveOf_zero]; omega
  · rw [waveOf_one]; omega
  · rw [waveOf_two]; omega
  · rw [waveOf_three]; omega

/-- The inverted half cycle is the other one reflected in 0x80. -/
theorem waveOf_add_opposite {q i : Nat} (hq : q < 4) (hi : i < 64) : waveOf q i + waveOf ((q + 2) % 4) i = 256 := by
  have hdirect := waveQ_range hi
  have hmirror := waveQ_range (i := 63 - i) (by omega)
  obtain rfl | rfl | rfl | rfl := quadrant_cases hq
  · change waveOf 0 i + waveOf 2 i = 256
    rw [waveOf_zero, waveOf_two]; omega
  · change waveOf 1 i + waveOf 3 i = 256
    rw [waveOf_one, waveOf_three]; omega
  · change waveOf 2 i + waveOf 0 i = 256
    rw [waveOf_zero, waveOf_two]; omega
  · change waveOf 3 i + waveOf 1 i = 256
    rw [waveOf_one, waveOf_three]; omega

/-- Bits [7:6] of a phase index are its quadrant and bits [5:0] its place in the quadrant (rule R121). -/
theorem wave_toNat {p : Byte} {q i : Nat} (hp : p.toNat = 64 * q + i) (hi : i < 64) :
    (wave p).toNat = waveOf q i := by
  have hq : q < 4 := by have := p.isLt; omega
  have hquadrant : p.extractLsb' 6 2 = BitVec.ofNat 2 q := BitVec.eq_of_toNat_eq (by
    rw [BitVec.extractLsb'_toNat, BitVec.toNat_ofNat, Nat.shiftRight_eq_div_pow]; omega)
  have hplace : (p.extractLsb' 0 6).toNat = i := by
    rw [BitVec.extractLsb'_toNat, Nat.shiftRight_zero]; omega
  have hwave : wave p = BitVec.ofNat 8 (waveOf q i) := by
    rw [wave, hquadrant, hplace]
    obtain rfl | rfl | rfl | rfl := quadrant_cases hq <;> rfl
  rw [hwave, BitVec.toNat_ofNat, Nat.mod_eq_of_lt (waveOf_range hq hi).1]

/-- Flipping the top bit of a phase index moves it by half a cycle. -/
theorem xor_0x80_toNat (p : Byte) : (p ^^^ 0x80).toNat = (p.toNat + 128) % 256 := by
  revert p; decide

/-- The values of `Wave` on the whole cycle: symmetry, what is never produced, and where the extremes are (rule R122). -/
theorem wave_symmetry_and_extremes (p : Byte) :
    (wave p).toNat + (wave (p ^^^ 0x80)).toNat = 256 ∧ wave p ≠ 0x80 ∧ wave p ≠ 0 ∧
      (wave p = 255 ↔ 0x3C ≤ p.toNat ∧ p.toNat ≤ 0x43) ∧ (wave p = 1 ↔ 0xBC ≤ p.toNat ∧ p.toNat ≤ 0xC3) := by
  obtain ⟨q, i, hp, hi⟩ : ∃ q i, p.toNat = 64 * q + i ∧ i < 64 := ⟨p.toNat / 64, p.toNat % 64, by omega, by omega⟩
  have hq : q < 4 := by have := p.isLt; omega
  have hopposite : (p ^^^ 0x80).toNat = 64 * ((q + 2) % 4) + i := by rw [xor_0x80_toNat]; omega
  refine ⟨?_, ?_⟩
  · rw [wave_toNat hp hi, wave_toNat hopposite hi, waveOf_add_opposite hq hi]
  · simp only [ne_eq, ← BitVec.toNat_inj, wave_toNat hp hi, hp]
    exact (waveOf_range hq hi).2

/-- Settles O13: the table is read quadrant by quadrant, and each worked value is one evaluation. -/
theorem waveAndStepVectors : Obligations.WaveAndStepVectors := by
  have hquadrant {n i : Nat} (q : Nat) (hn : n = 64 * q + i) (hq : q < 4) (hi : i < 64) :
      (wave (BitVec.ofNat 8 n)).toNat = waveOf q i := wave_toNat (by rw [BitVec.toNat_ofNat]; omega) hi
  refine ⟨fun i hi => ?_, rfl, rfl, rfl, rfl, rfl, rfl, rfl, rfl, rfl, rfl, wave_symmetry_and_extremes, by decide⟩
  simp only [← waveQ_eq_quarterSine]
  exact ⟨hquadrant 0 (by omega) (by decide) hi, hquadrant 1 rfl (by decide) hi, hquadrant 2 rfl (by decide) hi,
    hquadrant 3 rfl (by decide) hi⟩

end Sys2Proof.Machine
end

section
/-! The FIFO primitives and the host FIFO commands, and the invariants at reset (42_fifo.md rules R140 to R155,
70_reset_and_hazards.md rule R342). -/

namespace Sys2Proof.Machine

/-! The length. -/

/-- Settles O16: `Len` is a residue modulo `F.CAP`, and `Empty` and `Full` are its two extremes, which differ as `F.CAP` is at
least 2. -/
theorem fifoLengthBounds : Obligations.FifoLengthBounds := by
  intro bits f hb _
  have hempty := f.isEmpty_iff_len bits
  have hfull := f.isFull_iff_len hb
  have hcap := Fifo.cap_ge hb
  refine ⟨Nat.le_sub_one_of_lt (f.len_lt bits), hempty.symm, hfull.symm, ?_, f.contents_length bits⟩
  rw [hempty, hfull]
  omega

/-! `TryPush`. -/

/-- Reading the register that follows `pos` finds the next position (rules R61 and R140). -/
theorem Fifo.wrap_next_toNat {bits : Nat} (pos : Nat) (hb : bits ≤ 8) :
    Fifo.wrap bits (Fifo.next bits pos).toNat = Fifo.wrap bits (pos + 1) := by
  rw [Fifo.next_toNat pos hb]
  exact Nat.mod_mod _ _

theorem Fifo.inPos_push {bits : Nat} {f : Fifo} (b : Byte) (hb : bits ≤ 8) (h : f.isFull bits = false) :
    (f.push bits b).inPos bits = Fifo.wrap bits (f.inPos bits + 1) := by
  rw [Fifo.push_of_not_full b h]
  exact Fifo.wrap_next_toNat _ hb

/-- `TryPush` with room writes its byte at `F.IN` (rule R144). -/
theorem Fifo.push_read_same {bits : Nat} {f : Fifo} (b : Byte) (hw : f.wf bits = true) (h : f.isFull bits = false) :
    memRead fifoFill (f.push bits b).buf (f.inPos bits) = b := by
  obtain ⟨hbuf, _, _⟩ := (Fifo.wf_iff bits f).mp hw
  rw [Fifo.push_of_not_full b h]
  exact memRead_memWrite_same b hbuf

theorem Fifo.pushOk_iff (bits : Nat) (f : Fifo) : f.pushOk bits = true ↔ f.isFull bits = false := by
  rw [Fifo.pushOk, Bool.not_eq_true']

theorem Fifo.pushOk_of_full {bits : Nat} {f : Fifo} (h : f.isFull bits = true) : f.pushOk bits = false := by
  rw [Fifo.pushOk, h, Bool.not_true]

/-- Settles O17: the write at `IN` is behind the stored bytes, and a full FIFO is not written. -/
theorem fifoPushAppends : Obligations.FifoPushAppends := by
  intro bits f b hb hb' hw
  refine ⟨fun h => ?_, fun h => ⟨Fifo.pushOk_of_full h, Fifo.push_of_full b h⟩⟩
  exact ⟨(Fifo.pushOk_iff bits f).mpr h, Fifo.contents_push b hb hb' hw h, Fifo.len_push b hb hb' h,
    Fifo.wf_push b hb' hw, Fifo.inPos_push b hb' h, f.push_outIdx bits b, Fifo.push_read_same b hw h,
    fun _ ha => f.push_read_other b ha⟩

/-- A FIFO with room for a list of bytes stores them all behind those it holds (rules R143, R144 and R148). -/
theorem Fifo.contents_foldl_push {bits : Nat} (hb : 1 ≤ bits) (hb' : bits ≤ 8) (bs : List Byte) {f : Fifo}
    (hw : f.wf bits = true) (hroom : f.len bits + bs.length ≤ Fifo.cap bits - 1) :
    (bs.foldl (Fifo.push bits) f).contents bits = f.contents bits ++ bs := by
  induction bs generalizing f with
  | nil => exact (List.append_nil _).symm
  | cons b bs ih =>
    rw [List.length_cons] at hroom
    have hnotFull : f.isFull bits = false := by
      rw [← Bool.not_eq_true, f.isFull_iff_len hb]
      omega
    have hlen := Fifo.len_push b hb hb' hnotFull
    rw [List.foldl_cons, ih (Fifo.wf_push b hb' hw) (by omega), Fifo.contents_push b hb hb' hw hnotFull,
      List.append_assoc, List.singleton_append]

/-- Settles O19: an empty FIFO has room for CAP - 1 bytes, and after so many pushes its length is that of a full one. -/
theorem fifoHoldsCapacityLessOne : Obligations.FifoHoldsCapacityLessOne := by
  intro bits f bs hb hb' hw hempty hbs
  have hroom : f.len bits + bs.length ≤ Fifo.cap bits - 1 := by
    rw [(f.isEmpty_iff_len bits).mp hempty, Nat.zero_add]
    exact hbs
  have hstored : (bs.foldl (Fifo.push bits) f).contents bits = bs := by
    rw [Fifo.contents_foldl_push hb hb' bs hw hroom, (f.contents_nil_iff bits).mpr hempty, List.nil_append]
  have hlen : (bs.foldl (Fifo.push bits) f).len bits = bs.length := by
    rw [← Fifo.contents_length, hstored]
  exact ⟨hstored, hlen, fun hcap => Fifo.pushOk_of_full ((Fifo.isFull_iff_len _ hb).mpr (hlen.trans hcap))⟩

/-! `Pop` and `Peek`. -/

theorem Fifo.not_empty_of_contents {bits : Nat} {f : Fifo} {b : Byte} {rest : List Byte}
    (h : f.contents bits = b :: rest) : f.isEmpty bits = false := by
  rw [← Bool.not_eq_true, ← f.contents_nil_iff, h]
  exact List.cons_ne_nil b rest

theorem Fifo.peek_of_not_empty {bits : Nat} {f : Fifo} (h : f.isEmpty bits = false) :
    f.peek bits = memRead fifoFill f.buf (f.outPos bits) := by
  rw [Fifo.peek, h, if_neg Bool.false_ne_true]

theorem Fifo.outPos_pop {bits : Nat} {f : Fifo} (hb : bits ≤ 8) (h : f.isEmpty bits = false) :
    (f.pop bits).outPos bits = Fifo.wrap bits (f.outPos bits + 1) := by
  rw [Fifo.pop, h, if_neg Bool.false_ne_true]
  exact Fifo.wrap_next_toNat _ hb

/-- Settles O18: the oldest byte is the entry at `OUT`, which is passed over; an empty FIFO is left as it is. -/
theorem fifoPopRemovesOldest : Obligations.FifoPopRemovesOldest := by
  intro bits f _ hb' hw
  refine ⟨fun h => ?_, fun b rest h => ?_⟩
  · have hempty := (f.contents_nil_iff bits).mp h
    exact ⟨Fifo.peek_of_empty hempty, Fifo.pop_of_empty hempty⟩
  · have hne := Fifo.not_empty_of_contents h
    obtain ⟨hpeek, hrest⟩ := Fifo.contents_pop hb' h
    exact ⟨hpeek, (Fifo.peek_of_not_empty hne).symm.trans hpeek, hrest, Fifo.outPos_pop hb' hne, f.pop_inIdx bits,
      f.pop_buf bits, Fifo.wf_pop hb' hw⟩

/-! The host FIFO commands. -/

/-- `TXPUSH` with room in the TX FIFO (rule R151). -/
theorem exec_txpush_of_not_full {s : State} (b : Byte) (h : s.txFull = false) :
    exec (.txpush b) s = .next { s with txf := s.txf.push s.build.txFifoBits b, rsp := 0x0100 } := by
  have hok := (Fifo.pushOk_iff _ s.txf).mpr h
  show execTxpush b s = _
  rw [execTxpush, hok]
  rfl

/-- `TXPUSH` with a full TX FIFO, event E2 (rules R151 and R313). -/
theorem exec_txpush_of_full {s : State} (b : Byte) (h : s.txFull = true) :
    exec (.txpush b) s = .next { s with rsp := 0x0000 } := by
  show execTxpush b s = _
  rw [execTxpush, Fifo.pushOk_of_full h, Fifo.push_of_full b h]
  rfl

/-- Settles O21: the TX FIFO left is the one that `TryPush` leaves. -/
theorem txpushStoresItsByteOrReportsFull : Obligations.TxpushStoresItsByteOrReportsFull := by
  intro b s hb hw
  obtain ⟨_, ⟨hbits, hbits'⟩, _⟩ := legal_ranges hb
  refine ⟨fun h => ?_, exec_txpush_of_full b⟩
  obtain ⟨_, hcontents, hlen, _, _, hout, hsame, hother⟩ :=
    (fifoPushAppends s.build.txFifoBits s.txf b hbits hbits' hw).1 h
  exact ⟨_, exec_txpush_of_not_full b h, rfl, hcontents, hout, hlen, hsame, hother⟩

/-- `RXPOP` and `RXPEEK` with an empty RX FIFO (rules R152 and R153). -/
theorem exec_rxpop_rxpeek_of_empty {s : State} (h : s.rxEmpty = true) :
    exec .rxpop s = .next { s with rsp := 0x0000 } ∧ exec .rxpeek s = .next { s with rsp := 0x0000 } := by
  show execRxpop s = _ ∧ execRxpeek s = _
  rw [execRxpop, execRxpeek, h, Fifo.pop_of_empty h, Fifo.peek_of_empty h]
  exact ⟨rfl, rfl⟩

/-- `RXPOP` and `RXPEEK` answer with the oldest received byte, and `RXPOP` pops it (rules R152 and R153). -/
theorem exec_rxpop_rxpeek_of_contents {s : State} {b : Byte} {rest : List Byte} (hbits : s.build.rxFifoBits ≤ 8)
    (h : s.rxf.contents s.build.rxFifoBits = b :: rest) :
    exec .rxpop s = .next { s with rxf := s.rxf.pop s.build.rxFifoBits, rsp := 0x01#8 ++ b } ∧
      exec .rxpeek s = .next { s with rsp := 0x01#8 ++ b } := by
  have hne : s.rxEmpty = false := Fifo.not_empty_of_contents h
  obtain ⟨hpeek, _⟩ := Fifo.contents_pop hbits h
  show execRxpop s = _ ∧ execRxpeek s = _
  rw [execRxpop, execRxpeek, hne, hpeek]
  exact ⟨rfl, rfl⟩

/-- Settles O22: the RX FIFO left is the one that `Pop` leaves. -/
theorem rxpopReturnsTheOldestByte : Obligations.RxpopReturnsTheOldestByte := by
  refine ⟨by decide, fun s hb => ⟨fun b rest h => ?_, fun h => ?_⟩⟩
  · obtain ⟨_, _, ⟨_, hbits⟩, _⟩ := legal_ranges hb
    obtain ⟨_, hrest⟩ := Fifo.contents_pop hbits h
    exact ⟨_, (exec_rxpop_rxpeek_of_contents hbits h).1, rfl, hrest, s.rxf.pop_buf _, s.rxf.pop_inIdx _⟩
  · exact (exec_rxpop_rxpeek_of_empty ((s.rxf.contents_nil_iff _).mp h)).1

/-- The answer of `FIFOLEN` as a number: `Len` fits `DATA`, and `FLAG` is set at CAP - 1 (rule R154). -/
theorem lenResponse_toNat {bits : Nat} (f : Fifo) (hb : 1 ≤ bits) (hb' : bits ≤ 8) :
    (responseWord false (f.isFull bits) (BitVec.ofNat 8 (f.len bits))).toNat =
      (f.contents bits).length + (if (f.contents bits).length = 2 ^ bits - 1 then 256 else 0) := by
  have hlen := f.len_lt bits
  have hcap := Fifo.cap_le hb'
  have hfull : f.isFull bits = true ↔ f.len bits = 2 ^ bits - 1 := f.isFull_iff_len hb
  rw [responseWord_toNat, f.contents_length, BitVec.toNat_ofNat, Nat.mod_eq_of_lt (by omega)]
  by_cases h : f.len bits = 2 ^ bits - 1
  · rw [hfull.mpr h, if_pos h]; rfl
  · have hnotFull : f.isFull bits = false := by rwa [← Bool.not_eq_true, hfull]
    rw [hnotFull, if_neg h]; rfl

/-- Settles O23: `RXPEEK` answers as `Peek` does, and `FIFOLEN` with the number of stored bytes. -/
theorem rxpeekAndFifolenReport : Obligations.RxpeekAndFifolenReport := by
  intro s hb
  obtain ⟨_, ⟨htx, htx'⟩, ⟨hrx, hrx'⟩, _⟩ := legal_ranges hb
  refine ⟨fun b rest h => (exec_rxpop_rxpeek_of_contents hrx' h).2, fun h => ?_, ?_, ?_⟩
  · exact (exec_rxpop_rxpeek_of_empty ((s.rxf.contents_nil_iff _).mp h)).2
  · exact ⟨_, rfl, rfl, lenResponse_toNat s.txf htx htx'⟩
  · exact ⟨_, rfl, rfl, lenResponse_toNat s.rxf hrx hrx'⟩

/-- What `FIFOCLR` does to a FIFO that it selects or not (rules R147 and R155). -/
theorem Fifo.clear_selected (bits : Nat) (sel : Bool) {f g : Fifo} (hg : g = if sel then f.clear else f) :
    g.buf = f.buf ∧ (sel = true → g.inIdx = 0 ∧ g.outIdx = 0 ∧ g.contents bits = []) ∧ (sel = false → g = f) := by
  subst hg
  cases sel with
  | false => exact ⟨rfl, fun h => absurd h Bool.false_ne_true, fun _ => rfl⟩
  | true => exact ⟨rfl, fun _ => ⟨rfl, rfl, f.contents_clear bits⟩, fun h => absurd h.symm Bool.false_ne_true⟩

/-- Settles O24: each FIFO is cleared or not by its own bit of the operand. -/
theorem fifoclrEmptiesTheSelectedFifos : Obligations.FifoclrEmptiesTheSelectedFifos := by
  intro t r s
  obtain ⟨htbuf, htclear, htkeep⟩ := Fifo.clear_selected s.build.txFifoBits t (f := s.txf) rfl
  obtain ⟨hrbuf, hrclear, hrkeep⟩ := Fifo.clear_selected s.build.rxFifoBits r (f := s.rxf) rfl
  exact ⟨_, rfl, rfl, htbuf, hrbuf, htclear, htkeep, hrclear, hrkeep⟩

/-! Reset. -/

theorem iirInv_resetOf (b : Build) : (State.resetOf b).IirInv := by
  have hx : -4064 ≤ (0 : BitVec 16).toInt ∧ (0 : BitVec 16).toInt ≤ 4096 := by decide
  have hy : -16256 ≤ (0 : BitVec 16).toInt ∧ (0 : BitVec 16).toInt ≤ 16384 := by decide
  exact ⟨hx, hx, hy, hy⟩

/-- Settles O12: each invariant holds of the reset values; only the TX one needs the legal build, for an `SPB` above 0. -/
theorem resetMeetsTheInvariants : Obligations.ResetMeetsTheInvariants := fun b hb =>
  ⟨hb, memInv_resetOf b, txInv_resetOf hb, rxInv_resetOf b, carrierInv_resetOf b, iirInv_resetOf b⟩

end Sys2Proof.Machine
end

section
/-! The TX framer as an equation per case, and the symbol ticks, dial mode and `DIAL` by them (43_modulator.md rules
R174 to R196). -/

namespace Sys2Proof.Machine

/-- `CARRIER_BITS` of a legal build (rule R8). -/
theorem carrierBits_range {b : Build} (hb : b.legal = true) : 1 ≤ b.carrierBits ∧ b.carrierBits ≤ 255 :=
  (legal_ranges hb).2.2.2.2.2.2

/-! The TX FIFO as the transmitter reads it. -/

theorem State.txEmpty_of_contents_nil {s : State} (h : s.txf.contents s.build.txFifoBits = []) : s.txEmpty = true :=
  (s.txf.contents_nil_iff _).mp h

theorem State.txEmpty_of_contents_cons {s : State} {b : Byte} {rest : List Byte}
    (h : s.txf.contents s.build.txFifoBits = b :: rest) : s.txEmpty = false :=
  Fifo.not_empty_of_contents h

/-! The framer's rules. -/

theorem txWait_of_empty {s : State} (h : s.txEmpty = true) : txWait s = { s with txSym := true } :=
  if_pos h

/-- WAIT takes a waiting byte and starts the preamble (rule R181). -/
theorem txWait_of_not_empty {s : State} (h : s.txEmpty = false) :
    txWait s = { s with txByte := s.txf.peek s.build.txFifoBits, txf := s.txf.pop s.build.txFifoBits, txSym := true,
                        txActive := true, txBits := 0, txState := .preamble } := by
  rw [txWait, h]; rfl

/-- The last symbol of the preamble, by its count or under a forced carrier (rule R182). -/
theorem txPreamble_of_last {s : State} (hbits : s.txBits.toNat < 255)
    (h : s.build.carrierBits ≤ s.txBits.toNat + 1 ∨ s.txCarrierOn = true) :
    txPreamble s = { s with txSym := false, txBits := BitVec.ofNat 8 (s.txBits.toNat + 1), txState := .startBit } := by
  refine if_pos ?_
  rw [wrap8_toNat (by omega)]
  simpa using h

theorem txPreamble_of_more {s : State} (hbits : s.txBits.toNat < 255)
    (h : ¬ (s.build.carrierBits ≤ s.txBits.toNat + 1 ∨ s.txCarrierOn = true)) :
    txPreamble s = { s with txSym := true, txBits := BitVec.ofNat 8 (s.txBits.toNat + 1) } := by
  refine if_neg ?_
  rw [wrap8_toNat (by omega)]
  simpa using h

/-- Shifting a byte right halves it (rules R183 and R184). -/
theorem shiftRight_one_eq_ofNat (b : Byte) : b >>> 1 = BitVec.ofNat 8 (b.toNat / 2) := by
  refine BitVec.eq_of_toNat_eq ?_
  have hlt := b.isLt
  rw [BitVec.toNat_ushiftRight, Nat.shiftRight_eq_div_pow, BitVec.toNat_ofNat]
  omega

theorem txDataBit_of_last {s : State} (h : s.dataBits ≤ s.txBits.toNat) :
    txDataBit s = { s with txSym := true, txState := .stopBit } := if_pos h

theorem txDataBit_of_more {s : State} (h : s.txBits.toNat < s.dataBits) :
    txDataBit s = { s with txSym := s.txSr.getLsbD 0, txSr := s.txSr >>> 1,
                           txBits := BitVec.ofNat 8 (s.txBits.toNat + 1) } := if_neg (Nat.not_le_of_lt h)

theorem txStopBit_of_empty {s : State} (h : s.txEmpty = true) :
    txStopBit s = { s with txSym := true, txBits := 0, txState := .trail } := if_pos h

/-- STOP_BIT and TRAIL start the next byte alike (rules R185 and R186). -/
theorem txStopBit_of_not_empty {s : State} (h : s.txEmpty = false) : txStopBit s = s.startNextByte := by
  rw [txStopBit, h]; rfl

theorem txTrail_of_not_empty {s : State} (h : s.txEmpty = false) : txTrail s = s.startNextByte := by
  rw [txTrail, h]; rfl

/-- Below `CARRIER_BITS` a trail symbol is counted (rule R186). -/
theorem trailBits_of_more {s : State} (hb : s.build.legal = true) (h : s.txBits.toNat + 1 < s.build.carrierBits) :
    s.trailBits = BitVec.ofNat 8 (s.txBits.toNat + 1) ∧ s.trailBits.toNat = s.txBits.toNat + 1 := by
  have hcar := (carrierBits_range hb).2
  have heq : s.trailBits = wrap8 (s.txBits.toNat + 1) := if_pos (by omega)
  exact ⟨heq, by rw [heq, wrap8_toNat (by omega)]⟩

/-- From the last trail symbol on the count is saturated (rule R186). -/
theorem trailBits_of_last {s : State} (hb : s.build.legal = true) (h : s.build.carrierBits ≤ s.txBits.toNat + 1) :
    s.trailBits = BitVec.ofNat 8 (max s.txBits.toNat s.build.carrierBits) ∧
      s.build.carrierBits ≤ s.trailBits.toNat := by
  have hcar := (carrierBits_range hb).2
  rcases Nat.lt_or_ge s.txBits.toNat s.build.carrierBits with hlt | hge
  · have hsucc : s.txBits.toNat + 1 = s.build.carrierBits := by omega
    have heq : s.trailBits = wrap8 (s.txBits.toNat + 1) := if_pos hlt
    exact ⟨by rw [heq, hsucc, Nat.max_eq_right (by omega)]; rfl, by rw [heq, wrap8_toNat (by omega)]; exact h⟩
  · have heq : s.trailBits = s.txBits := if_neg (by omega)
    exact ⟨by rw [heq, Nat.max_eq_left hge, BitVec.ofNat_toNat, BitVec.setWidth_eq], by rw [heq]; exact hge⟩

/-- The trail goes on below `CARRIER_BITS`, and as long as the carrier is forced (rule R186). -/
theorem txTrail_of_more {s : State} (hempty : s.txEmpty = true)
    (h : s.trailBits.toNat < s.build.carrierBits ∨ s.txCarrierOn = true) :
    txTrail s = { s with txSym := true, txBits := s.trailBits } := by
  rw [txTrail, if_pos hempty, if_neg]
  rcases h with hmore | hon
  · simp [Nat.not_le_of_lt hmore]
  · simp [hon]

/-- The deactivation (rule R186). -/
theorem txTrail_of_last {s : State} (hempty : s.txEmpty = true) (h : s.build.carrierBits ≤ s.trailBits.toNat)
    (hoff : s.txCarrierOn = false) :
    txTrail s = { s with txSym := true, txActive := false, txPhase := 0, txCnt := 0, txBits := 0,
                         txState := .wait } := by
  rw [txTrail, if_pos hempty, if_pos]
  simp [h, hoff]

/-! The symbol ticks. -/

/-- The state that the framer finds at a symbol tick (rules R112, R170 and R174). -/
def State.atSymbolEnd (s : State) : State := { s with dtmfSend := none, txPhase := phaseAfter s, txCnt := 0 }

/-- What a symbol tick shows of the transmitter is the framer's work. -/
theorem afterTick_txView_of_symbolTick (x : Byte) {s : State} (h : symbolTick s) :
    (s.afterTick x).txView = (txFrame s.atSymbolEnd).txView := by
  obtain ⟨hdial, hcnt⟩ := h
  rw [afterTick_txView, tickTransmit_symbol hdial hcnt, State.nextPhase_eq_phaseAfter]
  rfl

/-- A symbol tick by the state that the framer leaves. -/
theorem exec_symbolTick (x : Byte) {s u : State} (h : symbolTick s) (hu : txFrame s.atSymbolEnd = u) :
    ∃ t, exec (.tick x) s = .next t ∧ t.txView = u.txView :=
  ⟨s.afterTick x, exec_tick x s, by rw [afterTick_txView_of_symbolTick x h, hu]⟩

/-- A symbol tick that takes the oldest byte from the TX FIFO (rule R145). -/
theorem exec_symbolTick_pop (x : Byte) {s u : State} (h : symbolTick s) (hu : txFrame s.atSymbolEnd = u)
    (hpop : u.txf = s.txf.pop s.build.txFifoBits) :
    ∃ t, exec (.tick x) s = .next t ∧
      t.txf.contents s.build.txFifoBits = (s.txf.pop s.build.txFifoBits).contents s.build.txFifoBits ∧
      t.txView = { u.txView with txf := t.txf } := by
  obtain ⟨t, ht, hview⟩ := exec_symbolTick x h hu
  have htxf : t.txf = u.txf := congrArg TxView.txf hview
  exact ⟨t, ht, by rw [htxf, hpop], by rw [hview, htxf]; rfl⟩

/-- Settles O36: the framer's rule for the state found, by whether the TX FIFO is empty and, in TRAIL, by the count. -/
theorem txFifoSymbolTicks : Obligations.TxFifoSymbolTicks := by
  intro x s h hb
  obtain ⟨_, ⟨_, hbits⟩, _⟩ := legal_ranges hb
  have hwait (hst : s.txState = .wait) : txFrame s.atSymbolEnd = txWait s.atSymbolEnd := txFrame_of_wait hst
  have hstop (hst : s.txState = .stopBit) : txFrame s.atSymbolEnd = txStopBit s.atSymbolEnd := txFrame_of_stopBit hst
  have htrail (hst : s.txState = .trail) : txFrame s.atSymbolEnd = txTrail s.atSymbolEnd := txFrame_of_trail hst
  have hempty (hfifo : s.txf.contents s.build.txFifoBits = []) : s.atSymbolEnd.txEmpty = true :=
    State.txEmpty_of_contents_nil hfifo
  refine ⟨fun hst hfifo => ?_, fun b rest hst hfifo => ?_, fun hst hfifo => ?_, fun b rest hst hfifo => ?_,
    fun hst hfifo hmore => ?_, fun hst hfifo hlast hoff => ?_, fun hst hfifo hlast hon => ?_⟩
  · exact exec_symbolTick x h ((hwait hst).trans (txWait_of_empty (hempty hfifo)))
  · have hne : s.atSymbolEnd.txEmpty = false := State.txEmpty_of_contents_cons hfifo
    obtain ⟨rfl, rfl⟩ := Fifo.contents_pop hbits hfifo
    exact exec_symbolTick_pop x h ((hwait hst).trans (txWait_of_not_empty hne)) rfl
  · exact exec_symbolTick x h ((hstop hst).trans (txStopBit_of_empty (hempty hfifo)))
  · have hne : s.atSymbolEnd.txEmpty = false := State.txEmpty_of_contents_cons hfifo
    have hstart : txFrame s.atSymbolEnd = s.atSymbolEnd.startNextByte := by
      rcases hst with hst | hst
      · exact (hstop hst).trans (txStopBit_of_not_empty hne)
      · exact (htrail hst).trans (txTrail_of_not_empty hne)
    obtain ⟨rfl, rfl⟩ := Fifo.contents_pop hbits hfifo
    exact exec_symbolTick_pop x h hstart rfl
  · obtain ⟨hcount, hval⟩ := trailBits_of_more (s := s.atSymbolEnd) hb hmore
    have hrun := txTrail_of_more (hempty hfifo) (.inl (hval ▸ hmore))
    rw [hcount] at hrun
    exact exec_symbolTick x h ((htrail hst).trans hrun)
  · obtain ⟨_, hval⟩ := trailBits_of_last (s := s.atSymbolEnd) hb hlast
    exact exec_symbolTick x h ((htrail hst).trans (txTrail_of_last (hempty hfifo) hval hoff))
  · obtain ⟨hcount, _⟩ := trailBits_of_last (s := s.atSymbolEnd) hb hlast
    have hrun := txTrail_of_more (hempty hfifo) (.inr hon)
    rw [hcount] at hrun
    exact exec_symbolTick x h ((htrail hst).trans hrun)

/-- Settles O37: the framer's rule for the state found, by whether its last symbol is reached. -/
theorem txPreambleStartAndDataSymbolTicks : Obligations.TxPreambleStartAndDataSymbolTicks := by
  intro x s h
  refine ⟨fun hst hbits => ?_, fun hst => ?_, fun hst hlast => ?_, fun hst hmore => ?_⟩
  · by_cases hlast : s.build.carrierBits ≤ s.txBits.toNat + 1 ∨ s.txCarrierOn = true
    · rw [if_pos hlast]
      exact exec_symbolTick x h ((txFrame_of_preamble (s := s.atSymbolEnd) hst).trans (txPreamble_of_last hbits hlast))
    · rw [if_neg hlast]
      exact exec_symbolTick x h ((txFrame_of_preamble (s := s.atSymbolEnd) hst).trans (txPreamble_of_more hbits hlast))
  · rw [← shiftRight_one_eq_ofNat]
    exact exec_symbolTick x h (txFrame_of_startBit (s := s.atSymbolEnd) hst)
  · exact exec_symbolTick x h ((txFrame_of_dataBit (s := s.atSymbolEnd) hst).trans (txDataBit_of_last hlast))
  · rw [← shiftRight_one_eq_ofNat]
    exact exec_symbolTick x h ((txFrame_of_dataBit (s := s.atSymbolEnd) hst).trans (txDataBit_of_more hmore))

/-! Dial mode. -/

theorem dialStep_of_active {s : State} (h : s.dtmfActive = true) : dialStep s = s := if_pos h

theorem dialStep_of_empty {s : State} (h : s.dtmfActive = false) (hempty : s.txEmpty = true) :
    dialStep s = { s with dialMode := false } := by
  rw [dialStep, h, hempty]; rfl

/-- An idle generator is sent the oldest byte of the TX FIFO (rule R195). -/
theorem dialStep_of_not_empty {s : State} (h : s.dtmfActive = false) (hempty : s.txEmpty = false) :
    dialStep s = { s with dtmfSend := some (s.txf.peek s.build.txFifoBits), txf := s.txf.pop s.build.txFifoBits } := by
  rw [dialStep, h, hempty]; rfl

/-- What a TICK in dial mode shows is the work of `DialStep` (rules R112 and R195). -/
theorem afterTick_of_dial (x : Byte) {s u : State} (hd : s.dialMode = true)
    (hu : dialStep { s with dtmfSend := none } = u) :
    (s.afterTick x).txSample = dialOut s ∧ (s.afterTick x).dtmfSend = u.dtmfSend ∧
      (s.afterTick x).dialMode = u.dialMode ∧ (s.afterTick x).txView = u.txView := by
  rw [afterTick_dtmfSend, afterTick_dialMode, afterTick_txView, tickTransmit_dial hd, hu]
  exact ⟨if_pos hd, rfl, rfl, rfl⟩

/-- Settles O39: `DialStep` by the level of the generator and by whether the TX FIFO is empty. -/
theorem dialModeTick : Obligations.DialModeTick := by
  intro x s hb hd
  obtain ⟨_, ⟨_, hbits⟩, _⟩ := legal_ranges hb
  have idleOut (h : s.dtmfActive = false) : dialOut s = 0x80 := by rw [dialOut, h]; rfl
  refine ⟨fun hact => ?_, fun c rest hact hfifo => ?_, fun hact hfifo => ?_⟩
  · obtain ⟨hout, hsend, hmode, hview⟩ := afterTick_of_dial x hd (dialStep_of_active hact)
    exact ⟨_, exec_tick x s, hout.trans (if_pos hact), hsend, hmode.trans hd, hview⟩
  · obtain ⟨rfl, rfl⟩ := Fifo.contents_pop hbits hfifo
    obtain ⟨hout, hsend, hmode, hview⟩ :=
      afterTick_of_dial x hd (dialStep_of_not_empty hact (State.txEmpty_of_contents_cons hfifo))
    have htxf : (s.afterTick x).txf = s.txf.pop s.build.txFifoBits := congrArg TxView.txf hview
    exact ⟨_, exec_tick x s, hout.trans (idleOut hact), hsend, hmode.trans hd, by rw [htxf], by rw [hview, htxf]; rfl⟩
  · obtain ⟨hout, hsend, hmode, hview⟩ :=
      afterTick_of_dial x hd (dialStep_of_empty hact (State.txEmpty_of_contents_nil hfifo))
    exact ⟨_, exec_tick x s, hout.trans (idleOut hact), hsend, hmode, hview⟩

/-! `DIAL`. -/

/-- Of the codes that runs reach, WAIT alone acts as WAIT (rule R175). -/
theorem TxState.acting_eq_wait_iff {q : TxState} (h6 : q ≠ .unused6) (h7 : q ≠ .unused7) :
    q.acting = .wait ↔ q = .wait := by
  cases q with
  | unused6 => exact absurd rfl h6
  | unused7 => exact absurd rfl h7
  | _ => exact Iff.rfl

theorem exec_dial_true_of_dialling {s : State} (h : s.dialMode = true) :
    exec (.dial true) s = .next { s with rsp := 0x0100 } := if_pos h

/-- Outside dial mode `DIAL 1` is decided by whether TX is idle (rule R196). -/
theorem exec_dial_true_of_not_dialling {s : State} (h : s.dialMode = false) :
    ((s.txState.acting = .wait ∧ s.txActive = false) →
      exec (.dial true) s = .next { s with dialMode := true, rsp := 0x0100 }) ∧
    (¬ (s.txState.acting = .wait ∧ s.txActive = false) → exec (.dial true) s = .next { s with rsp := 0x0000 }) := by
  have hdial : ¬ s.dialMode = true := by simp [h]
  have hidle : (decide (s.txState.acting = .wait) && !s.txActive) = true ↔
      s.txState.acting = .wait ∧ s.txActive = false := by simp
  exact ⟨fun hi => (if_neg hdial).trans (if_pos (hidle.mpr hi)),
    fun hi => (if_neg hdial).trans (if_neg (mt hidle.mp hi))⟩

/-- `DIAL 0` leaves dial mode, and its `FLAG` tells whether it was on (rule R196). -/
theorem exec_dial_false (s : State) :
    exec (.dial false) s = .next { s with dialMode := false, rsp := responseWord false s.dialMode 0x00 } := rfl

/-- Settles O33: `DIAL 1` by dial mode and by whether TX is idle, and `DIAL 0`, which does not look at TX. -/
theorem dialEntersAndLeavesDialMode : Obligations.DialEntersAndLeavesDialMode := by
  intro s
  refine ⟨exec_dial_true_of_dialling, fun hd hst hact => ?_, fun hd h6 h7 hbusy => ?_, fun hd => ?_, fun hd => ?_⟩
  · exact (exec_dial_true_of_not_dialling hd).1 ⟨by rw [hst]; rfl, hact⟩
  · refine (exec_dial_true_of_not_dialling hd).2 ?_
    rintro ⟨hst, hact⟩
    rcases hbusy with hbusy | hbusy
    · exact hbusy ((TxState.acting_eq_wait_iff h6 h7).mp hst)
    · exact Bool.false_ne_true (hact.symm.trans hbusy)
  · rw [exec_dial_false, hd]; rfl
  · rw [exec_dial_false, hd]; rfl

end Sys2Proof.Machine
end

section
/-! One byte from an idle transmitter to an idle transmitter: what a symbol period does, and the frame symbol by symbol
(43_modulator.md rules R176 to R187). -/

namespace Sys2Proof.Machine

/-! A symbol period. -/

/-- The TX engine but for its phase and its FIFO. -/
def State.txLatches (s : State) : TxView := { s.txView with txPhase := 0, txf := Fifo.reset }

/-- A machine set up as `m`, outside dial mode and with no forced carrier, whose TX latches are `v` and whose TX FIFO
stores `bytes`. -/
structure State.OnLine (m : State) (v : TxView) (bytes : List Byte) (s : State) : Prop where
  build   : s.build = m.build
  control : s.controlView = m.controlView
  carrier : s.txCarrierOn = false
  dial    : s.dialMode = false
  latches : s.txLatches = v
  fifo    : s.txf.contents m.build.txFifoBits = bytes

theorem State.profile_congr {s u : State} (hb : s.build = u.build) (hc : s.controlView = u.controlView) :
    s.profile = u.profile := by
  have hselect : s.cfgProfile = u.cfgProfile := congrArg ControlView.cfgProfile hc
  rw [State.profile, State.profile, hb, hselect]

theorem State.spb_congr {s u : State} (hb : s.build = u.build) (hc : s.controlView = u.controlView) :
    s.spb = u.spb := by
  rw [State.spb, State.spb, State.profile_congr hb hc, hb]

theorem State.dataBits_congr {s u : State} (hb : s.build = u.build) (hc : s.controlView = u.controlView) :
    s.dataBits = u.dataBits := by
  rw [State.dataBits, State.dataBits, State.profile_congr hb hc]

variable {m s : State} {v w : TxView} {bytes : List Byte}

theorem State.OnLine.spb_eq (h : State.OnLine m v bytes s) : s.spb = m.spb := State.spb_congr h.build h.control

/-- A TICK outside dial mode leaves the set-up as it is (rule R71). -/
theorem State.OnLine.afterTick (x : Byte) (h : State.OnLine m v bytes s) {bytes' : List Byte}
    (hlatches : (s.afterTick x).txLatches = w) (hfifo : (s.afterTick x).txf.contents m.build.txFifoBits = bytes') :
    State.OnLine m w bytes' (s.afterTick x) where
  build := (afterTick_build x s).trans h.build
  control := (afterTick_controlView x s).trans h.control
  carrier := (afterTick_ports x s).1.trans h.carrier
  dial := (afterTick_dialMode x s).trans (tickTransmit_dialMode_off h.dial)
  latches := hlatches
  fifo := hfifo

/-- Inside a symbol period a TICK moves the count alone (rule R174). -/
theorem State.OnLine.afterTick_midPeriod (x : Byte) {n : Nat} (hspb : m.spb ≤ 255) (hn : n + 1 < m.spb)
    (h : State.OnLine m { v with txCnt := BitVec.ofNat 8 n } bytes s) :
    State.OnLine m { v with txCnt := BitVec.ofNat 8 (n + 1) } bytes (s.afterTick x) := by
  have hcnt : s.txCnt = BitVec.ofNat 8 n := congrArg TxView.txCnt h.latches
  have hval : s.txCnt.toNat = n := by rw [hcnt, BitVec.toNat_ofNat]; omega
  have hmid : midPeriod s := ⟨h.dial, by rw [hval, h.spb_eq]; omega⟩
  have hview : (s.afterTick x).txView =
      { s.txView with txPhase := phaseAfter s, txCnt := BitVec.ofNat 8 (n + 1) } := by
    rw [afterTick_txView, tickTransmit_of_midPeriod hmid, hval]; rfl
  have htxf : (s.afterTick x).txf = s.txf := congrArg TxView.txf hview
  refine h.afterTick x ?_ (by rw [htxf]; exact h.fifo)
  rw [State.txLatches, hview]
  exact congrArg (fun l : TxView => { l with txCnt := BitVec.ofNat 8 (n + 1) }) h.latches

theorem State.OnLine.tickRun_midPeriod (hspb : m.spb ≤ 255) {n : Nat} (xs : List Byte)
    (h : State.OnLine m { v with txCnt := BitVec.ofNat 8 n } bytes s) (hlen : n + xs.length < m.spb) :
    State.OnLine m { v with txCnt := BitVec.ofNat 8 (n + xs.length) } bytes (tickRun xs s) := by
  induction xs generalizing n s with
  | nil => exact h
  | cons x xs ih =>
    rw [List.length_cons, Nat.add_comm xs.length 1, ← Nat.add_assoc] at hlen ⊢
    exact ih (h.afterTick_midPeriod x hspb (by omega)) hlen

/-- After the `SPB` TICKs of a symbol period the framer has run once, on a state that differs from the one found in the
phase alone (rules R174 and R176). -/
theorem State.OnLine.tickRun_period (hb : m.build.legal = true) (h : State.OnLine m v bytes s) (h0 : v.txCnt = 0)
    {xs : List Byte} (hlen : xs.length = m.spb) :
    ∃ u, State.OnLine m v bytes u ∧ (tickRun xs s).txView = (txFrame u).txView ∧
      ∀ {w bytes'}, (txFrame u).txLatches = w → (txFrame u).txf.contents m.build.txFifoBits = bytes' →
        State.OnLine m w bytes' (tickRun xs s) := by
  obtain ⟨hspb4, hspb⟩ := spb_range hb
  obtain ⟨ys, x, rfl⟩ : ∃ ys x, xs = ys ++ [x] := by
    rcases List.eq_nil_or_concat xs with rfl | ⟨ys, x, rfl⟩
    · rw [List.length_nil] at hlen; omega
    · exact ⟨ys, x, List.concat_eq_append⟩
  rw [List.length_append, List.length_singleton] at hlen
  rw [tickRun_append]
  have hstart : { v with txCnt := 0 } = v := by rw [← h0]
  have hlast := State.OnLine.tickRun_midPeriod hspb (n := 0) ys (hstart.symm ▸ h) (by omega)
  rw [Nat.zero_add] at hlast
  generalize tickRun ys s = t at hlast ⊢
  have hcnt : t.txCnt = BitVec.ofNat 8 ys.length := congrArg TxView.txCnt hlast.latches
  have hsym : symbolTick t := ⟨hlast.dial, by rw [hcnt, BitVec.toNat_ofNat, hlast.spb_eq]; omega⟩
  have hview : (tickRun [x] t).txView = (txFrame t.atSymbolEnd).txView := afterTick_txView_of_symbolTick x hsym
  have htxf : (tickRun [x] t).txf = (txFrame t.atSymbolEnd).txf := congrArg TxView.txf hview
  refine ⟨t.atSymbolEnd, ⟨hlast.build, hlast.control, hlast.carrier, hlast.dial, ?_, hlast.fifo⟩, hview,
    fun hlatches hfifo => hlast.afterTick x ?_ (by rw [← hfifo, ← htxf]; rfl)⟩
  · exact (congrArg (fun l : TxView => { l with txCnt := 0 }) hlast.latches).trans hstart
  · exact (congrArg (fun l : TxView => { l with txPhase := 0, txf := Fifo.reset }) hview).trans hlatches

/-! The symbols of a run. -/

/-- With TX active, `s` has each symbol of the list in force after one more period of `m`, and `P` holds at the end. -/
def State.Emits (m : State) (P : State → Prop) : List Bool → State → Prop
  | [], s => P s
  | sym :: syms, s => ∀ xs : List Byte, xs.length = m.spb →
      (tickRun xs s).txSym = sym ∧ (tickRun xs s).txActive = true ∧ State.Emits m P syms (tickRun xs s)

theorem State.Emits.append {P Q : State → Prop} {as bs : List Bool} (h : State.Emits m Q as s)
    (hQ : ∀ t, Q t → State.Emits m P bs t) : State.Emits m P (as ++ bs) s := by
  induction as generalizing s with
  | nil => exact hQ s h
  | cons a as ih =>
    intro xs hlen
    obtain ⟨hsym, hact, hrest⟩ := h xs hlen
    exact ⟨hsym, hact, ih hrest⟩

theorem exists_cut {xs : List Byte} {k n : Nat} (hlen : xs.length = k + n) :
    ∃ ys zs, xs = ys ++ zs ∧ ys.length = k ∧ zs.length = n :=
  ⟨xs.take k, xs.drop k, (List.take_append_drop k xs).symm, by rw [List.length_take]; omega,
    by rw [List.length_drop]; omega⟩

/-- A run of one period and more, cut after that period. -/
theorem exists_firstPeriod {xs : List Byte} {n spb : Nat} (hlen : xs.length = (n + 1) * spb) :
    ∃ ys zs, xs = ys ++ zs ∧ ys.length = spb ∧ zs.length = n * spb :=
  exists_cut (by rw [hlen, Nat.succ_mul, Nat.add_comm])

/-- The symbol in force after `k + 1` periods is the `k`-th. -/
theorem State.Emits.symbol {P : State → Prop} {syms : List Bool} (h : State.Emits m P syms s) {k : Nat} {xs : List Byte}
    (hk : k < syms.length) (hlen : xs.length = (k + 1) * m.spb) :
    (tickRun xs s).txSym = syms.getD k true ∧ (tickRun xs s).txActive = true := by
  induction syms generalizing s k xs with
  | nil => exact absurd hk (Nat.not_lt_zero k)
  | cons sym syms ih =>
    cases k with
    | zero =>
      obtain ⟨hsym, hact, _⟩ := h xs (by omega)
      exact ⟨hsym, hact⟩
    | succ k =>
      obtain ⟨ys, zs, rfl, hys, hzs⟩ := exists_firstPeriod hlen
      rw [tickRun_append]
      exact ih (h ys hys).2.2 (Nat.lt_of_succ_lt_succ hk) hzs

theorem State.Emits.final {P : State → Prop} {syms : List Bool} (h : State.Emits m P syms s) {xs : List Byte}
    (hlen : xs.length = syms.length * m.spb) : P (tickRun xs s) := by
  induction syms generalizing s xs with
  | nil =>
    rw [List.length_nil, Nat.zero_mul, List.length_eq_zero_iff] at hlen
    rw [hlen]
    exact h
  | cons sym syms ih =>
    obtain ⟨ys, zs, rfl, hys, hzs⟩ := exists_firstPeriod hlen
    rw [tickRun_append]
    exact ih (h ys hys).2.2 hzs

/-! The stages of a frame. -/

/-- The TX latches of an active transmitter at the start of a symbol period. -/
def sendingView (b : Byte) (q : TxState) (sym : Bool) (bits : Nat) (sr : Byte) : TxView :=
  { txState := q, txActive := true, txSym := sym, txByte := b, txSr := sr, txBits := BitVec.ofNat 8 bits,
    txPhase := 0, txCnt := 0, txf := Fifo.reset }

/-- At the start of a symbol period `s` sends `b`, set up as `m`, and no byte waits. -/
def State.Sending (m : State) (b : Byte) (q : TxState) (sym : Bool) (bits : Nat) (sr : Byte) (s : State) : Prop :=
  State.OnLine m (sendingView b q sym bits sr) [] s

variable {b sr : Byte} {q : TxState} {sym : Bool} {bits : Nat}

/-- What the framer reads of a transmitter that sends. -/
theorem State.Sending.reads (h : State.Sending m b q sym bits sr s) (hbits : bits ≤ 255) :
    s.txState = q ∧ s.txByte = b ∧ s.txSr = sr ∧ s.txBits.toNat = bits ∧ s.txEmpty = true := by
  have hcount : s.txBits = BitVec.ofNat 8 bits := congrArg TxView.txBits h.latches
  refine ⟨congrArg TxView.txState h.latches, congrArg TxView.txByte h.latches, congrArg TxView.txSr h.latches, ?_, ?_⟩
  · rw [hcount, BitVec.toNat_ofNat]; omega
  · exact State.txEmpty_of_contents_nil (h.build ▸ h.fifo)

/-- One symbol period of a transmitter that sends, by what the framer makes of it. -/
theorem State.Sending.emits {P : State → Prop} {q' : TxState} {sym' : Bool} {bits' : Nat} {sr' : Byte}
    {syms : List Bool} (hb : m.build.legal = true) (h : State.Sending m b q sym bits sr s)
    (hframe : ∀ u, State.Sending m b q sym bits sr u →
      txFrame u = { u with txState := q', txSym := sym', txBits := BitVec.ofNat 8 bits', txSr := sr' })
    (hrest : ∀ t, State.Sending m b q' sym' bits' sr' t → State.Emits m P syms t) :
    State.Emits m P (sym' :: syms) s := by
  intro xs hlen
  obtain ⟨u, hu, _, hnext⟩ := State.OnLine.tickRun_period hb h rfl hlen
  have hlatches : (txFrame u).txLatches = sendingView b q' sym' bits' sr' := by
    rw [hframe u hu]
    exact congrArg
      (fun l : TxView => { l with txState := q', txSym := sym', txBits := BitVec.ofNat 8 bits', txSr := sr' })
      hu.latches
  have ht : State.Sending m b q' sym' bits' sr' (tickRun xs s) := hnext hlatches (by rw [hframe u hu]; exact hu.fifo)
  exact ⟨congrArg TxView.txSym ht.latches, congrArg TxView.txActive ht.latches, hrest _ ht⟩

/-- From the preamble to the SPACE of the start bit (rule R182). -/
theorem State.Sending.emits_preamble (hb : m.build.legal = true) {n r : Nat} (hr : n + 1 + r = m.build.carrierBits)
    (h : State.Sending m b .preamble true n sr s) :
    State.Emits m (State.Sending m b .startBit false m.build.carrierBits sr) (List.replicate r true ++ [false]) s := by
  have hcar := (carrierBits_range hb).2
  have hbits : n ≤ 255 := by omega
  induction r generalizing n s with
  | zero =>
    refine h.emits hb (fun u hu => ?_) (fun t ht => ht)
    obtain ⟨hst, _, hsr, hcnt, _⟩ := hu.reads hbits
    rw [txFrame_of_preamble hst, txPreamble_of_last (by omega) (.inl (by rw [hu.build]; omega)), hcnt, ← hr, ← hsr]
  | succ r ih =>
    refine h.emits hb (fun u hu => ?_) (fun t ht => ih (n := n + 1) (by omega) ht (by omega))
    obtain ⟨hst, _, hsr, hcnt, _⟩ := hu.reads hbits
    have hmore : ¬ (u.build.carrierBits ≤ u.txBits.toNat + 1 ∨ u.txCarrierOn = true) := by
      rw [hu.build, hu.carrier]; simp; omega
    rw [txFrame_of_preamble hst, txPreamble_of_more (by omega) hmore, hcnt, ← hst, ← hsr]

/-- The shift register after bit `j`, and the bit it sends next (rules R183 and R184). -/
theorem shiftedByte_next (b : Byte) (j : Nat) :
    (b >>> (j + 1)).getLsbD 0 = b.getLsbD (j + 1) ∧ (b >>> (j + 1)) >>> 1 = b >>> (j + 2) := by
  exact ⟨by rw [BitVec.getLsbD_ushiftRight, Nat.add_zero], (BitVec.shiftRight_add b (j + 1) 1).symm⟩

/-- From a data bit to the MARK of the stop bit (rule R184). -/
theorem State.Sending.emits_data (hb : m.build.legal = true) {j r : Nat} (hr : j + 1 + r = m.dataBits)
    (h : State.Sending m b .dataBit (b.getLsbD j) (j + 1) (b >>> (j + 1)) s) :
    State.Emits m (State.Sending m b .stopBit true m.dataBits (b >>> m.dataBits))
      ((List.range' (j + 1) r).map (fun k => b.getLsbD k) ++ [true]) s := by
  obtain ⟨_, hdata⟩ := dataBits_range hb
  have hbits : j + 1 ≤ 255 := by omega
  induction r generalizing j s with
  | zero =>
    refine h.emits hb (fun u hu => ?_) (fun t ht => ht)
    obtain ⟨hst, _, hsr, hcnt, _⟩ := hu.reads hbits
    have hcount : u.txBits = BitVec.ofNat 8 (j + 1) := congrArg TxView.txBits hu.latches
    have hlast : u.dataBits ≤ u.txBits.toNat := by
      rw [State.dataBits_congr hu.build hu.control, hcnt]; omega
    rw [txFrame_of_dataBit hst, txDataBit_of_last hlast, ← hr, Nat.add_zero, ← hcount, ← hsr]
  | succ r ih =>
    refine h.emits hb (fun u hu => ?_) (fun t ht => ih (j := j + 1) (by omega) ht (by omega))
    obtain ⟨hst, _, hsr, hcnt, _⟩ := hu.reads hbits
    obtain ⟨hbit, hshift⟩ := shiftedByte_next b j
    have hmore : u.txBits.toNat < u.dataBits := by
      rw [State.dataBits_congr hu.build hu.control, hcnt]; omega
    rw [txFrame_of_dataBit hst, txDataBit_of_more hmore, hsr, hbit, hshift, hcnt, ← hst]

/-- From the start bit to the stop bit (rules R183 and R184). -/
theorem State.Sending.emits_start (hb : m.build.legal = true)
    (h : State.Sending m b .startBit false m.build.carrierBits sr s) :
    State.Emits m (State.Sending m b .stopBit true m.dataBits (b >>> m.dataBits))
      ((List.range m.dataBits).map (fun k => b.getLsbD k) ++ [true]) s := by
  have hcar := (carrierBits_range hb).2
  obtain ⟨r, hr⟩ : ∃ r, m.dataBits = r + 1 := Nat.exists_eq_add_of_le' (dataBits_range hb).1
  have hbits : List.range m.dataBits = 0 :: List.range' 1 r := by rw [hr, List.range_eq_range', List.range'_succ]
  rw [hbits]
  refine h.emits hb (fun u hu => ?_) (fun t ht => State.Sending.emits_data hb (by omega) ht)
  obtain ⟨hst, hbyte, _, _, _⟩ := hu.reads hcar
  rw [txFrame_of_startBit hst, txStartBit, hbyte]
  rfl

/-- The trail, up to its last symbol (rule R186). -/
theorem State.Sending.emits_trail (hb : m.build.legal = true) {n r : Nat} (hr : n + 1 + r = m.build.carrierBits)
    (h : State.Sending m b .trail true n sr s) :
    State.Emits m (State.Sending m b .trail true (m.build.carrierBits - 1) sr) (List.replicate r true) s := by
  have hcar := (carrierBits_range hb).2
  induction r generalizing n s with
  | zero => rw [← hr]; exact h
  | succ r ih =>
    refine h.emits hb (fun u hu => ?_) (fun t ht => ih (n := n + 1) (by omega) ht)
    obtain ⟨hst, _, hsr, hcnt, hempty⟩ := hu.reads (by omega)
    have hlt : u.txBits.toNat + 1 < u.build.carrierBits := by rw [hcnt, hu.build]; omega
    obtain ⟨hcount, hval⟩ := trailBits_of_more (hu.build ▸ hb) hlt
    rw [txFrame_of_trail hst, txTrail_of_more hempty (.inl (hval ▸ hlt)), hcount, hcnt, ← hst, ← hsr]

/-- From the stop bit to the last symbol of the trail (rules R185 and R186). -/
theorem State.Sending.emits_stop (hb : m.build.legal = true) (h : State.Sending m b .stopBit true m.dataBits sr s) :
    State.Emits m (State.Sending m b .trail true (m.build.carrierBits - 1) sr)
      (List.replicate m.build.carrierBits true) s := by
  obtain ⟨_, hdata⟩ := dataBits_range hb
  obtain ⟨r, hr⟩ : ∃ r, m.build.carrierBits = r + 1 := Nat.exists_eq_add_of_le' (carrierBits_range hb).1
  rw [hr, List.replicate_succ, ← hr]
  refine h.emits hb (fun u hu => ?_) (fun t ht => State.Sending.emits_trail hb (n := 0) (by omega) ht)
  obtain ⟨hst, _, hsr, _, hempty⟩ := hu.reads (by omega)
  rw [txFrame_of_stopBit hst, txStopBit_of_empty hempty, ← hsr]
  rfl

/-- The deactivation at the end of the trail (rule R186). -/
theorem State.Sending.deactivates (hb : m.build.legal = true)
    (h : State.Sending m b .trail true (m.build.carrierBits - 1) sr s) {xs : List Byte} (hlen : xs.length = m.spb) :
    (tickRun xs s).txState = .wait ∧ (tickRun xs s).txActive = false ∧ (tickRun xs s).txPhase = 0 ∧
      (tickRun xs s).txf.contents m.build.txFifoBits = [] := by
  obtain ⟨hcar, hcar'⟩ := carrierBits_range hb
  obtain ⟨u, hu, hview, _⟩ := State.OnLine.tickRun_period hb h rfl hlen
  obtain ⟨hst, _, _, hcnt, hempty⟩ := State.Sending.reads hu (by omega)
  obtain ⟨_, hval⟩ := trailBits_of_last (hu.build ▸ hb) (by rw [hcnt, hu.build]; omega)
  rw [txFrame_of_trail hst, txTrail_of_last hempty hval hu.carrier] at hview
  have htxf : (tickRun xs s).txf = u.txf := congrArg TxView.txf hview
  exact ⟨congrArg TxView.txState hview, congrArg TxView.txActive hview, congrArg TxView.txPhase hview,
    by rw [htxf]; exact hu.fifo⟩

/-! The whole frame. -/

/-- The first symbol tick takes the byte and starts the preamble (rule R181). -/
theorem readyToSend.starts (h : readyToSend m b) {xs : List Byte} (hlen : xs.length = m.spb) :
    State.Sending m b .preamble true 0 m.txSr (tickRun xs m) := by
  obtain ⟨hb, hdial, hcar, hst, _, hcnt, hfifo⟩ := h
  obtain ⟨_, ⟨_, hbits⟩, _⟩ := legal_ranges hb
  have hidle : State.OnLine m m.txLatches [b] m := ⟨rfl, rfl, hcar, hdial, rfl, hfifo⟩
  obtain ⟨u, hu, _, hnext⟩ := hidle.tickRun_period hb hcnt hlen
  have hst' : u.txState = .wait := (congrArg TxView.txState hu.latches).trans hst
  have hfifo' : u.txf.contents u.build.txFifoBits = [b] := hu.build ▸ hu.fifo
  obtain ⟨hpeek, hpop⟩ := Fifo.contents_pop (hu.build ▸ hbits) hfifo'
  have hframe := (txFrame_of_wait hst').trans (txWait_of_not_empty (State.txEmpty_of_contents_cons hfifo'))
  refine hnext ?_ (by rw [hframe, ← hu.build]; exact hpop)
  have hsr : u.txSr = m.txSr := congrArg TxView.txSr hu.latches
  have hcnt' : u.txCnt = 0 := (congrArg TxView.txCnt hu.latches).trans hcnt
  rw [hframe]
  simp only [State.txLatches, State.txView, sendingView, hpeek, hsr, hcnt']
  rfl

/-- The symbols of a frame, one after the other, and the last trail symbol's state at the end (rule R187). -/
theorem readyToSend.emits (h : readyToSend m b) :
    ∃ sr, State.Emits m (State.Sending m b .trail true (m.build.carrierBits - 1) sr)
      (frameSymbols m.build.carrierBits m.dataBits b) m := by
  have hb : m.build.legal = true := h.1
  obtain ⟨r, hr⟩ : ∃ r, m.build.carrierBits = r + 1 := Nat.exists_eq_add_of_le' (carrierBits_range hb).1
  have hsyms : frameSymbols m.build.carrierBits m.dataBits b =
      true :: ((List.replicate r true ++ [false]) ++
        (((List.range m.dataBits).map (fun k => b.getLsbD k) ++ [true]) ++
          List.replicate m.build.carrierBits true)) := by
    rw [frameSymbols, hr]; simp [List.replicate_succ]
  refine ⟨b >>> m.dataBits, ?_⟩
  rw [hsyms]
  intro xs hlen
  have hstart := h.starts hlen
  refine ⟨congrArg TxView.txSym hstart.latches, congrArg TxView.txActive hstart.latches, ?_⟩
  exact (hstart.emits_preamble hb (by omega)).append fun t ht =>
    (ht.emits_start hb).append fun t ht => ht.emits_stop hb

/-- Settles O38: each stage of the frame emits its symbols and hands over to the next one, and the period after the last
symbol deactivates. -/
theorem transmissionSendsTheFrame : Obligations.TransmissionSendsTheFrame := by
  intro s b h
  obtain ⟨sr, hemits⟩ := h.emits
  refine ⟨fun k xs hk hlen => hemits.symbol hk hlen, fun xs hlen => ?_⟩
  rw [Nat.succ_mul] at hlen
  obtain ⟨ys, zs, rfl, hys, hzs⟩ := exists_cut hlen
  rw [tickRun_append]
  exact (hemits.final hys).deactivates h.1 hzs

end Sys2Proof.Machine
end

section
/-! The windows of the RX framer on an ideal line: what a run of decisions makes of each (44_demodulator.md rules R224
to R229). -/

namespace Sys2Proof.Machine

/-! A window. -/

/-- The receiver `s` in state `q`, with the history `h` and a window of `cnt` decisions, `sum` of them HIGH. -/
def State.rxAt (s : State) (h : BitVec 8) (q : RxState) (cnt sum : Nat) : State :=
  { s with rxHist := h, rxState := q, rxCnt := wrap8 cnt, rxBitsum := wrap8 sum }

/-- The receiver `s` with `n` data bits received, which are in `byte`. -/
def State.withData (s : State) (byte : Byte) (n : Nat) : State := { s with rxByte := byte, rxBits := BitVec.ofNat 4 n }

/-- The decisions of a whole window (rules R224 to R228). -/
def State.windowLength (s : State) : RxState → Nat
  | .preamble | .stopBit => s.spb / 2
  | .startBit | .dataBit => s.spb
  | .wait | .carrier | .noCarrier | .nop => 0

/-- What the framer does with a window after each of its decisions (rules R224 to R228). -/
def windowCheck (q : RxState) (s : State) : State :=
  match q with
  | .preamble => rxPreambleCheck s
  | .startBit => rxStartBitCheck s
  | .dataBit  => rxDataBitCheck s
  | .stopBit  => rxStopBitCheck s
  | .wait | .carrier | .noCarrier | .nop => s

theorem wrap8_wrap8_add (n k : Nat) : wrap8 ((wrap8 n).toNat + k) = wrap8 (n + k) :=
  BitVec.eq_of_toNat_eq (by simp [wrap8])

/-- A decision is counted into the window, which is then checked. -/
theorem takeDecision_rxAt (bit : Bool) (s : State) (h : BitVec 8) {q : RxState} (hq : q.hasWindow) (cnt sum : Nat) :
    ∃ h', takeDecision bit (s.rxAt h q cnt sum) = windowCheck q (s.rxAt h' q (cnt + 1) (sum + bitVal bit)) := by
  have hcount (h' : BitVec 8) : countDecision bit (s.rxAt h' q cnt sum) = s.rxAt h' q (cnt + 1) (sum + bitVal bit) := by
    simp only [countDecision, State.rxAt, wrap8_wrap8_add]
  refine ⟨(pushHistory bit (s.rxAt h q cnt sum)).rxHist, ?_⟩
  rw [← hcount]
  cases q with
  | preamble => exact rxFrame_of_preamble rfl
  | startBit => exact rxFrame_of_startBit rfl
  | dataBit => exact rxFrame_of_dataBit rfl
  | stopBit => exact rxFrame_of_stopBit rfl
  | _ => simp [RxState.hasWindow] at hq

/-- A window that is not full is left open. -/
theorem windowCheck_of_open {s : State} {q : RxState} {cnt : Nat} (h : BitVec 8) (sum : Nat)
    (hspb : s.windowLength q ≤ 256) (hcnt : cnt < s.windowLength q) :
    windowCheck q (s.rxAt h q cnt sum) = s.rxAt h q cnt sum := by
  have hval : ¬ s.windowLength q ≤ (wrap8 cnt).toNat := by rw [wrap8_toNat (by omega)]; omega
  cases q with
  | preamble => exact if_neg hval
  | startBit => exact if_neg hval
  | dataBit => exact if_neg hval
  | stopBit => exact if_neg hval
  | _ => rfl

/-- Decisions that do not overfill a window are all counted into it, and the window is checked after the last. -/
theorem decisionRun_window {s : State} {q : RxState} (hq : q.hasWindow) (hspb : s.windowLength q ≤ 256)
    {ds : List Bool} (hne : ds ≠ []) (h : BitVec 8) {cnt : Nat} (sum : Nat)
    (hfit : cnt + ds.length ≤ s.windowLength q) :
    ∃ h', decisionRun ds (s.rxAt h q cnt sum) =
      windowCheck q (s.rxAt h' q (cnt + ds.length) (sum + ds.count true)) := by
  induction ds generalizing h cnt sum with
  | nil => exact absurd rfl hne
  | cons d ds ih =>
    obtain ⟨h', hd⟩ := takeDecision_rxAt d s h hq cnt sum
    have hsum : sum + (d :: ds).count true = sum + bitVal d + ds.count true := by
      cases d with
      | false => simp [bitVal]
      | true => simp [bitVal]; omega
    rw [decisionRun_cons, hd, hsum, List.length_cons, Nat.add_comm ds.length 1, ← Nat.add_assoc]
    rw [List.length_cons] at hfit
    rcases ds with _ | ⟨e, ds⟩
    · exact ⟨h', rfl⟩
    · rw [List.length_cons] at hfit
      rw [windowCheck_of_open h' _ hspb (by omega)]
      exact ih (List.cons_ne_nil e ds) h' _ (by rw [List.length_cons]; omega)

/-! The ends of the windows of an ideal frame. -/

section
variable {s : State} (hspb : s.spb ≤ 255) {cnt sum : Nat} (h : BitVec 8)
include hspb

/-- The half window of PREAMBLE runs on into START_BIT, count and sum with it (rule R224). -/
theorem windowCheck_preamble_accepts (hsum : sum ≤ s.spb / 8) :
    windowCheck .preamble (s.rxAt h .preamble (s.spb / 2) sum) = s.rxAt h .startBit (s.spb / 2) sum := by
  have hcnt : s.spb / 2 ≤ (wrap8 (s.spb / 2)).toNat := Nat.le_of_eq (wrap8_toNat (by omega)).symm
  have hlow : (wrap8 sum).toNat ≤ s.spb / 8 := by rw [wrap8_toNat (by omega)]; exact hsum
  exact (if_pos hcnt).trans (if_pos hlow)

theorem windowCheck_startBit_accepts (hsum : sum ≤ s.spb / 4) :
    windowCheck .startBit (s.rxAt h .startBit s.spb sum) =
      (s.withData 0 0).rxAt h .dataBit 0 0 := by
  have hcnt : s.spb ≤ (wrap8 s.spb).toNat := Nat.le_of_eq (wrap8_toNat (by omega)).symm
  have hlow : (wrap8 sum).toNat ≤ s.spb / 4 := by rw [wrap8_toNat (by omega)]; exact hsum
  exact (if_pos hcnt).trans (if_pos hlow)

/-- A data bit is 1 with more than `SPB/2` HIGH decisions (rules R226 and R227). -/
theorem windowCheck_dataBit_stores (byte : Byte) {n : Nat} (hn : n < 8) (hsum : sum ≤ 255) {bit : Bool}
    (hbit : decide (s.spb / 2 < sum) = bit) :
    windowCheck .dataBit ((s.withData byte n).rxAt h .dataBit s.spb sum) =
      (s.withData (byte ||| wrap8 (bitVal bit * 2 ^ n)) (n + 1)).rxAt h
        (if s.dataBits ≤ n + 1 then .stopBit else .dataBit) 0 0 := by
  have hcnt : s.spb ≤ (wrap8 s.spb).toNat := Nat.le_of_eq (wrap8_toNat (by omega)).symm
  have hn4 : (BitVec.ofNat 4 n).toNat = n := by rw [BitVec.toNat_ofNat]; omega
  have hn4' : (BitVec.ofNat 4 (n + 1)).toNat = n + 1 := by rw [BitVec.toNat_ofNat]; omega
  calc windowCheck .dataBit ((s.withData byte n).rxAt h .dataBit s.spb sum)
      = (s.withData (byte ||| wrap8 (bitVal (decide (s.spb / 2 < (wrap8 sum).toNat)) *
            2 ^ (BitVec.ofNat 4 n).toNat)) ((BitVec.ofNat 4 n).toNat + 1)).rxAt h
          (if s.dataBits ≤ (BitVec.ofNat 4 ((BitVec.ofNat 4 n).toNat + 1)).toNat then .stopBit else .dataBit) 0 0 :=
        if_pos hcnt
    _ = _ := by rw [wrap8_toNat (by omega), hn4, hn4', hbit]

theorem windowCheck_stopBit_pushes (hsum : sum ≤ 255) (hhigh : s.spb / 4 < sum) :
    windowCheck .stopBit (s.rxAt h .stopBit (s.spb / 2) sum) =
      State.rxAt { s with rxf := s.rxf.push s.build.rxFifoBits s.rxByte } h .wait (s.spb / 2) sum := by
  have hcnt : s.spb / 2 ≤ (wrap8 (s.spb / 2)).toNat := Nat.le_of_eq (wrap8_toNat (by omega)).symm
  have hmany : s.spb / 4 < (wrap8 sum).toNat := by rw [wrap8_toNat (by omega)]; exact hhigh
  exact (if_pos hcnt).trans (if_pos hmany)

end

/-! The data bits. -/

/-- Bit `n` joins the low bits of the byte below it (rule R227). -/
theorem lowBits_succ (b : Byte) {n : Nat} (hn : n < 8) :
    lowBits n b ||| wrap8 (bitVal (b.getLsbD n) * 2 ^ n) = lowBits (n + 1) b := by
  refine BitVec.eq_of_getLsbD_eq fun i hi => ?_
  have hlow (k : Nat) : (lowBits k b).getLsbD i = (decide (i < k) && b.getLsbD i) := by
    rw [lowBits, BitVec.getLsbD_ofNat, Nat.testBit_mod_two_pow, BitVec.testBit_toNat, decide_eq_true hi, Bool.true_and]
  have hone : (wrap8 (bitVal (b.getLsbD n) * 2 ^ n)).getLsbD i = (decide (i = n) && b.getLsbD n) := by
    cases b.getLsbD n with
    | false => simp [wrap8, bitVal]
    | true =>
      show (BitVec.ofNat 8 (1 * 2 ^ n)).getLsbD i = _
      rw [Nat.one_mul, BitVec.getLsbD_ofNat, Nat.testBit_two_pow, decide_eq_true hi, Bool.true_and, Bool.and_true]
      exact decide_eq_decide.mpr eq_comm
  rw [BitVec.getLsbD_or, hlow, hone, hlow]
  rcases Nat.lt_trichotomy i n with hlt | rfl | hgt
  · simp [hlt, Nat.lt_succ_of_lt hlt, Nat.ne_of_lt hlt]
  · simp
  · simp [Nat.not_lt_of_gt hgt, Nat.ne_of_gt hgt, Nat.not_lt_of_ge hgt]

theorem count_symbolWindow (bit next : Bool) (k : Nat) :
    (List.replicate k bit ++ [next]).count true = (if bit then k else 0) + bitVal next := by
  cases bit <;> cases next <;> simp [bitVal, List.count_replicate]

/-! The windows of an ideal frame. -/

section
variable {s : State} (hlo : 4 ≤ s.spb) (hhi : s.spb ≤ 255)
include hlo hhi

theorem decisionRun_preambleWindow (h : BitVec 8) :
    ∃ h', decisionRun (List.replicate (s.spb / 2) false) (s.rxAt h .preamble 0 0) =
      s.rxAt h' .startBit (s.spb / 2) 0 := by
  have hne : List.replicate (s.spb / 2) false ≠ [] := by simp; omega
  obtain ⟨h', hrun⟩ := decisionRun_window (s := s) (q := .preamble) (by simp [RxState.hasWindow])
    (show s.spb / 2 ≤ 256 by omega) hne h (cnt := 0) 0 (show _ ≤ s.spb / 2 by simp)
  have hsum : (List.replicate (s.spb / 2) false).count true = 0 := by simp [List.count_replicate]
  rw [List.length_replicate, hsum, Nat.zero_add, Nat.zero_add] at hrun
  exact ⟨h', hrun.trans (windowCheck_preamble_accepts hhi h' (Nat.zero_le _))⟩

/-- The rest of the start window ends on the first decision of bit 0 (rules R225 and R229). -/
theorem decisionRun_startWindow (h : BitVec 8) (next : Bool) :
    ∃ h', decisionRun (List.replicate (s.spb - 1 - s.spb / 2) false ++ [next]) (s.rxAt h .startBit (s.spb / 2) 0) =
      (s.withData 0 0).rxAt h' .dataBit 0 0 := by
  have hlen : s.spb / 2 + (List.replicate (s.spb - 1 - s.spb / 2) false ++ [next]).length = s.spb := by simp; omega
  have hsum := count_symbolWindow false next (s.spb - 1 - s.spb / 2)
  have hnext := bitVal_le_one next
  obtain ⟨h', hrun⟩ := decisionRun_window (s := s) (q := .startBit) (by simp [RxState.hasWindow])
    (Nat.le_succ_of_le hhi) (List.concat_ne_nil next _) h 0 (Nat.le_of_eq hlen)
  rw [hlen, hsum, if_neg Bool.false_ne_true, Nat.zero_add, Nat.zero_add] at hrun
  exact ⟨h', hrun.trans (windowCheck_startBit_accepts hhi h' (by omega))⟩

/-- A window that starts one decision late takes its symbol `SPB - 1` times, and the next symbol once: the majority is
its own (rules R226 and R229). -/
theorem decisionRun_dataBit (b : Byte) (h : BitVec 8) {n : Nat}
    (hn : n < 8) (next : Bool) :
    ∃ h', decisionRun (List.replicate (s.spb - 1) (b.getLsbD n) ++ [next])
        ((s.withData (lowBits n b) n).rxAt h .dataBit 0 0) =
      (s.withData (lowBits (n + 1) b) (n + 1)).rxAt h' (if s.dataBits ≤ n + 1 then .stopBit else .dataBit) 0 0 := by
  have hlen : (List.replicate (s.spb - 1) (b.getLsbD n) ++ [next]).length = s.spb := by simp; omega
  have hnext := bitVal_le_one next
  have hsum := count_symbolWindow (b.getLsbD n) next (s.spb - 1)
  have hmajority : decide (s.spb / 2 < (if b.getLsbD n then s.spb - 1 else 0) + bitVal next) = b.getLsbD n := by
    cases b.getLsbD n with
    | false => simp; omega
    | true => simp; omega
  have hle : (if b.getLsbD n then s.spb - 1 else 0) + bitVal next ≤ 255 := by split <;> omega
  obtain ⟨h', hrun⟩ := decisionRun_window (s := s.withData (lowBits n b) n) (q := .dataBit)
    (by simp [RxState.hasWindow]) (Nat.le_succ_of_le hhi) (List.concat_ne_nil next _) h (cnt := 0) 0
    (Nat.le_of_eq ((Nat.zero_add _).trans hlen))
  rw [hlen, hsum, Nat.zero_add, Nat.zero_add] at hrun
  exact ⟨h', by rw [hrun, ← lowBits_succ b hn]; exact windowCheck_dataBit_stores hhi h' _ hn hle hmajority⟩

/-- From the decision after bit `n`'s first one to the first of the stop bit, all the data bits left are stored
(rules R226, R227 and R229). -/
theorem decisionRun_dataBits (hbits : s.dataBits ≤ 8) (b : Byte)
    (h : BitVec 8) {n r : Nat} (hr : n + 1 + r = s.dataBits) :
    ∃ h', decisionRun (List.replicate (s.spb - 1) (b.getLsbD n) ++
        ((List.range' (n + 1) r).map (fun k => b.getLsbD k)).flatMap (fun bit => List.replicate s.spb bit) ++ [true])
        ((s.withData (lowBits n b) n).rxAt h .dataBit 0 0) =
      (s.withData (lowBits s.dataBits b) s.dataBits).rxAt h' .stopBit 0 0 := by
  induction r generalizing n h with
  | zero =>
    obtain ⟨h', hrun⟩ := decisionRun_dataBit hlo hhi b h (n := n) (by omega) true
    have hn : n + 1 = s.dataBits := hr
    rw [hn, if_pos (Nat.le_refl _)] at hrun
    exact ⟨h', by simpa using hrun⟩
  | succ r ih =>
    obtain ⟨h', hrun⟩ := decisionRun_dataBit hlo hhi b h (n := n) (by omega) (b.getLsbD (n + 1))
    have hsplit : List.replicate s.spb (b.getLsbD (n + 1)) =
        b.getLsbD (n + 1) :: List.replicate (s.spb - 1) (b.getLsbD (n + 1)) := by
      rw [← List.replicate_succ, Nat.sub_add_cancel (by omega)]
    rw [if_neg (by omega)] at hrun
    obtain ⟨h'', hrest⟩ := ih h' (n := n + 1) (by omega)
    refine ⟨h'', ?_⟩
    rw [← hrest, ← hrun, ← decisionRun_append, List.range'_succ, List.map_cons, List.flatMap_cons, hsplit]
    simp

/-- The half window of the stop bit pushes the byte (rule R228). -/
theorem decisionRun_stopWindow (h : BitVec 8) :
    ∃ h', decisionRun (List.replicate (s.spb / 2) true) (s.rxAt h .stopBit 0 0) =
      State.rxAt { s with rxf := s.rxf.push s.build.rxFifoBits s.rxByte } h' .wait (s.spb / 2) (s.spb / 2) := by
  have hne : List.replicate (s.spb / 2) true ≠ [] := by simp; omega
  obtain ⟨h', hrun⟩ := decisionRun_window (s := s) (q := .stopBit) (by simp [RxState.hasWindow])
    (show s.spb / 2 ≤ 256 by omega) hne h (cnt := 0) 0 (show _ ≤ s.spb / 2 by simp)
  rw [List.length_replicate, List.count_replicate_self, Nat.zero_add] at hrun
  exact ⟨h', hrun.trans (windowCheck_stopBit_pushes hhi h' (by omega) (by omega))⟩

end

end Sys2Proof.Machine
end

section
/-! A listening receiver: WAIT on a MARK line, and an ideal frame from its edge to the pushed byte (44_demodulator.md
rules R218 to R229). -/

namespace Sys2Proof.Machine

/-! WAIT. -/

/-- The loss timer after a WAIT TICK that does not lose the carrier (rule R221). -/
def State.nextLoss (s : State) : BitVec 24 :=
  if s.carrierLocked && s.dcdFollows then
    if s.rxHist = 0xFF then BitVec.ofNat 24 s.lossSamples else s.lossCnt - 1
  else s.lossCnt

theorem rxWait_of_timeLeft {s : State}
    (h : s.carrierLocked = true → s.dcdFollows = true → s.rxHist ≠ 0xFF → 2 ≤ s.lossCnt.toNat) :
    rxWait s = rxEdgeSearch { s with lossCnt := s.nextLoss } := by
  unfold rxWait State.nextLoss
  split
  · next hrun =>
    obtain ⟨hlock, hfollow⟩ := Bool.and_eq_true_iff.mp hrun
    split
    · rfl
    · next hhist =>
      have htime := h hlock hfollow hhist
      rw [if_neg (by omega)]
  · rfl

/-- The last two decisions after a HIGH one and one more (rule R218). -/
theorem pushHistory_lastTwo : ∀ (h : BitVec 8) (bit : Bool), h.getLsbD 0 = true →
    ((h <<< 1) ||| BitVec.ofNat 8 (bitVal bit)).extractLsb' 0 2 = if bit then 0b11#2 else 0b10#2 := by decide

theorem rxEdgeSearch_of_edge {s : State} (h : s.rxHist.extractLsb' 0 2 = 0b10#2) :
    rxEdgeSearch s = { s with rxBitsum := 0, rxCnt := 0, rxState := .preamble } := if_pos h

theorem rxEdgeSearch_of_no_edge {s : State} (h : ¬ s.rxHist.extractLsb' 0 2 = 0b10#2) : rxEdgeSearch s = s := if_neg h

section
variable {s : State} (hs : s.rxState = .wait)
include hs

theorem takeDecision_of_wait (bit : Bool)
    (htime : s.carrierLocked = true → s.dcdFollows = true → (pushHistory bit s).rxHist ≠ 0xFF → 2 ≤ s.lossCnt.toNat) :
    takeDecision bit s = rxEdgeSearch { pushHistory bit s with lossCnt := (pushHistory bit s).nextLoss } :=
  (rxFrame_of_wait (s := pushHistory bit s) hs).trans (rxWait_of_timeLeft (s := pushHistory bit s) htime)

variable (hone : s.rxHist.getLsbD 0 = true)
include hone

/-- HIGH after HIGH is no edge (rule R222). -/
theorem takeDecision_high_of_wait
    (htime : s.carrierLocked = true → s.dcdFollows = true → (pushHistory true s).rxHist ≠ 0xFF → 2 ≤ s.lossCnt.toNat) :
    takeDecision true s =
      { s with rxHist := (pushHistory true s).rxHist, lossCnt := (pushHistory true s).nextLoss } := by
  rw [takeDecision_of_wait hs true htime, rxEdgeSearch_of_no_edge]
  · rfl
  · rw [pushHistory_rxHist, pushHistory_lastTwo _ true hone]
    decide

/-- LOW after HIGH opens a window (rule R222). -/
theorem takeDecision_low_of_wait (htime : s.carrierLocked = true → s.dcdFollows = true → 2 ≤ s.lossCnt.toNat) :
    takeDecision false s =
      State.rxAt { s with lossCnt := (pushHistory false s).nextLoss } (pushHistory false s).rxHist .preamble 0 0 := by
  rw [takeDecision_of_wait hs false fun hlock hfollow _ => htime hlock hfollow, rxEdgeSearch_of_edge]
  · rfl
  · rw [pushHistory_rxHist, pushHistory_lastTwo _ false hone]
    rfl

end

/-- A running loss timer counts down as long as the history has a LOW decision (rule R221). -/
theorem State.nextLoss_toNat_of_low {s : State} (hlock : s.carrierLocked = true) (hfollow : s.dcdFollows = true)
    (hhist : s.rxHist ≠ 0xFF) (htime : 1 ≤ s.lossCnt.toNat) : s.nextLoss.toNat + 1 = s.lossCnt.toNat := by
  have hone : (1 : BitVec 24).toNat = 1 := rfl
  have hlt := s.lossCnt.isLt
  rw [State.nextLoss, hlock, hfollow, Bool.and_self, if_pos rfl, if_neg hhist, BitVec.toNat_sub, hone]
  omega

/-- A history of eight HIGH decisions reloads a running loss timer (rule R221). -/
theorem State.nextLoss_toNat_of_high {s : State} (hb : s.build.legal = true) (hlock : s.carrierLocked = true)
    (hfollow : s.dcdFollows = true) (hhist : s.rxHist = 0xFF) : s.nextLoss.toNat = s.lossSamples := by
  have hmul := register_mul_sampleRate_le hb s.cfgLossTenths
  have hfit : s.lossSamples < 2 ^ 24 := by unfold State.lossSamples; omega
  rw [State.nextLoss, hlock, hfollow, Bool.and_self, if_pos rfl, if_pos hhist, BitVec.toNat_ofNat,
    Nat.mod_eq_of_lt hfit]

/-! The frame. -/

/-- An ideal frame, cut at the ends of the windows: the edge, the half window of PREAMBLE, the rest of the start window,
the data windows, and the half window of the stop bit. A full window ends on the first decision of the next symbol. -/
theorem idealFrame_eq_windows {spb r : Nat} (hspb : 4 ≤ spb) (b : Byte) :
    idealFrame spb (r + 1) b =
      [false] ++ (List.replicate (spb / 2) false ++ ((List.replicate (spb - 1 - spb / 2) false ++ [b.getLsbD 0]) ++
        ((List.replicate (spb - 1) (b.getLsbD 0) ++
          ((List.range' 1 r).map (fun k => b.getLsbD k)).flatMap (fun bit => List.replicate spb bit) ++ [true]) ++
          List.replicate (spb / 2) true))) := by
  have hlow : List.replicate spb false =
      [false] ++ (List.replicate (spb / 2) false ++ List.replicate (spb - 1 - spb / 2) false) := by
    rw [List.replicate_append_replicate, ← List.replicate_one, List.replicate_append_replicate]
    congr 1
    omega
  have hfirst : List.replicate spb (b.getLsbD 0) = [b.getLsbD 0] ++ List.replicate (spb - 1) (b.getLsbD 0) := by
    rw [← List.replicate_one, List.replicate_append_replicate]
    congr 1
    omega
  rw [idealFrame, List.range_eq_range', List.range'_succ, List.map_cons, List.flatMap_cons, hfirst, hlow,
    List.replicate_succ]
  simp only [List.append_assoc, List.cons_append, List.nil_append]

/-- The receiver `s` with the byte `b` received and pushed, and the loss timer at `l`. -/
def State.received (s : State) (b : Byte) (l : BitVec 24) : State :=
  { s.withData (lowBits s.dataBits b) s.dataBits with
    lossCnt := l, rxf := s.rxf.push s.build.rxFifoBits (lowBits s.dataBits b) }

/-- The windows of an ideal frame, from the edge to the pushed byte (rules R224 to R229). -/
theorem decisionRun_idealWindows {s : State} (hb : s.build.legal = true) (b : Byte) (h : BitVec 8) :
    ∃ ds h', idealFrame s.spb s.dataBits b = [false] ++ ds ∧ decisionRun ds (s.rxAt h .preamble 0 0) =
      (s.received b s.lossCnt).rxAt h' .wait (s.spb / 2) (s.spb / 2) := by
  obtain ⟨hlo, hhi⟩ := spb_range hb
  obtain ⟨hbits, hbits'⟩ := dataBits_range hb
  obtain ⟨r, hr⟩ : ∃ r, s.dataBits = r + 1 := Nat.exists_eq_add_of_le' hbits
  have hbyte : lowBits 0 b = 0 := BitVec.eq_of_toNat_eq (by simp [lowBits, Nat.mod_one])
  obtain ⟨h1, hpre⟩ := decisionRun_preambleWindow hlo hhi h
  obtain ⟨h2, hstart⟩ := decisionRun_startWindow hlo hhi h1 (b.getLsbD 0)
  obtain ⟨h3, hdata⟩ := decisionRun_dataBits hlo hhi hbits' b h2 (n := 0) (r := r) (by omega)
  obtain ⟨h4, hstop⟩ :=
    decisionRun_stopWindow (s := s.withData (lowBits s.dataBits b) s.dataBits) hlo hhi h3
  rw [hbyte] at hdata
  refine ⟨_, h4, (congrArg (idealFrame s.spb · b) hr).trans (idealFrame_eq_windows hlo b), ?_⟩
  rw [decisionRun_append, hpre, decisionRun_append, hstart, decisionRun_append, hdata]
  exact hstop

/-- A listening receiver after an ideal frame: the byte is pushed, the window registers hold what the frame left in
them, and a running loss timer has counted the one WAIT TICK of the edge (rules R221 to R229). -/
theorem decisionRun_idealFrame {s : State} (b : Byte) (hl : listening s) (htime : lossTimeLeft 2 0 s) :
    ∃ h l, decisionRun (idealFrame s.spb s.dataBits b) s =
        (s.received b l).rxAt h .wait (s.spb / 2) (s.spb / 2) ∧
      (s.carrierLocked = true → s.dcdFollows = true → l.toNat + 1 = s.lossCnt.toNat) := by
  obtain ⟨hb, hs, hone⟩ := hl
  have hedge := takeDecision_low_of_wait hs hone fun hlock hfollow => (htime hlock hfollow).1
  have hlow : (pushHistory false s).rxHist ≠ 0xFF := fun hfull =>
    absurd (pushHistory_newest false s) (by rw [hfull]; decide)
  obtain ⟨ds, h, hframe, hrun⟩ := decisionRun_idealWindows
    (s := { s with lossCnt := (pushHistory false s).nextLoss }) hb b (pushHistory false s).rxHist
  refine ⟨h, (pushHistory false s).nextLoss, ?_, fun hlock hfollow =>
    State.nextLoss_toNat_of_low (s := pushHistory false s) hlock hfollow hlow
      (Nat.le_of_succ_le (htime hlock hfollow).1)⟩
  have hframe' : idealFrame s.spb s.dataBits b = [false] ++ ds := hframe
  rw [hframe', decisionRun_append, decisionRun_cons, decisionRun_nil, hedge, hrun]
  rfl

end Sys2Proof.Machine
end

section
/-! The round trip: the symbols of a transmitter, held for `SPB` decisions each, at a listening receiver (rules R176,
R187 and R229). -/

namespace Sys2Proof.Machine

/-! A MARK line. -/

/-- The receiver `r` after HIGH decisions in WAIT: the last `j` decisions were HIGH, and a running loss timer and `j`
add up to at least `total`. The timer pays one TICK for each further HIGH decision, until the eighth reloads it
(rule R221). -/
structure State.OnMark (r : State) (total : Nat) (s : State) : Prop where
  frame : s = { r with rxHist := s.rxHist, lossCnt := s.lossCnt }
  highs : ∃ j, (1 ≤ j ∧ j ≤ 7) ∧ (∀ i < j, s.rxHist.getLsbD i = true) ∧
    (s.carrierLocked = true → s.dcdFollows = true → total ≤ s.lossCnt.toNat + j)

/-- The history after one more decision, place by place (rule R218). -/
theorem pushHistory_getLsbD (bit : Bool) (s : State) {i : Nat} (hi : i < 8) :
    (pushHistory bit s).rxHist.getLsbD i = if i = 0 then bit else s.rxHist.getLsbD (i - 1) := by
  rcases i with _ | i
  · exact pushHistory_newest bit s
  · cases bit <;> simp [bitVal, hi, Nat.lt_of_succ_lt hi]

theorem pushHistory_high_ones {s : State} {j : Nat} (h : ∀ i < j, s.rxHist.getLsbD i = true) :
    ∀ i < j + 1, i < 8 → (pushHistory true s).rxHist.getLsbD i = true := by
  intro i hi hi8
  rw [pushHistory_getLsbD true s hi8]
  split
  · rfl
  · exact h (i - 1) (by omega)

theorem ones_0xFF : ∀ i < 8, (0xFF : BitVec 8).getLsbD i = true := by decide

theorem eq_0xFF_of_ones {h : BitVec 8} (hones : ∀ i < 8, h.getLsbD i = true) : h = 0xFF :=
  BitVec.eq_of_getLsbD_eq fun i hi => (hones i hi).trans (ones_0xFF i hi).symm

/-- One more HIGH decision: the timer counts while the history is not full of ones, and is reloaded when it is. -/
theorem State.OnMark.takeDecision_high {r s : State} {total : Nat} (h : State.OnMark r total s)
    (hb : r.build.legal = true) (hs : r.rxState = .wait) (htotal : 8 ≤ total)
    (hreload : r.carrierLocked = true → r.dcdFollows = true → total ≤ r.lossSamples + 7) :
    State.OnMark r total (takeDecision true s) := by
  obtain ⟨hframe, j, ⟨hj1, hj7⟩, hones, htime⟩ := h
  have hwait : s.rxState = .wait := by rw [hframe]; exact hs
  have hbuild : s.build.legal = true := by rw [hframe]; exact hb
  have hreload' (hlock : s.carrierLocked = true) (hfollow : s.dcdFollows = true) : total ≤ s.lossSamples + 7 := by
    rw [hframe] at hlock hfollow ⊢
    exact hreload hlock hfollow
  have hnew := pushHistory_high_ones hones
  have hnotFull (hlow : (pushHistory true s).rxHist ≠ 0xFF) : j ≤ 6 :=
    Nat.le_of_not_lt fun hj => hlow (eq_0xFF_of_ones fun i hi => hnew i (by omega) hi)
  rw [takeDecision_high_of_wait hwait (hones 0 hj1) fun hlock hfollow hlow => by
    have := hnotFull hlow; have := htime hlock hfollow; omega]
  refine ⟨by rw [hframe], ?_⟩
  by_cases hfull : (pushHistory true s).rxHist = 0xFF
  · refine ⟨7, by decide, fun i hi => hfull ▸ ones_0xFF i (by omega), fun hlock hfollow => ?_⟩
    have hload := State.nextLoss_toNat_of_high (s := pushHistory true s) hbuild hlock hfollow hfull
    show total ≤ (pushHistory true s).nextLoss.toNat + 7
    rw [hload]
    exact hreload' hlock hfollow
  · have hj6 := hnotFull hfull
    refine ⟨j + 1, ⟨by omega, by omega⟩, fun i hi => hnew i hi (by omega), fun hlock hfollow => ?_⟩
    have hleft := htime hlock hfollow
    have hcount : (pushHistory true s).nextLoss.toNat + 1 = s.lossCnt.toNat :=
      State.nextLoss_toNat_of_low (s := pushHistory true s) hlock hfollow hfull (show 1 ≤ s.lossCnt.toNat by omega)
    show total ≤ (pushHistory true s).nextLoss.toNat + (j + 1)
    omega

/-- A MARK line keeps the receiver in WAIT, and pushes nothing. -/
theorem State.OnMark.decisionRun_high {r s : State} {total : Nat} (h : State.OnMark r total s)
    (hb : r.build.legal = true) (hs : r.rxState = .wait) (htotal : 8 ≤ total)
    (hreload : r.carrierLocked = true → r.dcdFollows = true → total ≤ r.lossSamples + 7) (n : Nat) :
    State.OnMark r total (decisionRun (List.replicate n true) s) := by
  induction n generalizing s with
  | zero => exact h
  | succ n ih =>
    rw [List.replicate_succ, decisionRun_cons]
    exact ih (h.takeDecision_high hb hs htotal hreload)

/-- The last decisions of a run are in the history it leaves (rule R218). -/
theorem decisionRun_high_ones (s : State) (n : Nat) :
    ∀ i < n, i < 8 → (decisionRun (List.replicate n true) s).rxHist.getLsbD i = true := by
  induction n with
  | zero => intro i hi; exact absurd hi (Nat.not_lt_zero i)
  | succ n ih =>
    intro i hi hi8
    rw [List.replicate_succ', decisionRun_append, decisionRun_cons, decisionRun_nil, takeDecision_rxHist,
      pushHistory_getLsbD true _ hi8]
    split
    · rfl
    · exact ih (i - 1) (by omega) (by omega)

/-! The round trip. -/

/-- The symbols that a transmitter sends are those of the frame (rule R187). -/
theorem sentSymbols_eq_frameSymbols {s : State} {b : Byte} {xs : List Byte} {n : Nat} (h : readyToSend s b)
    (hn : n = (frameSymbols s.build.carrierBits s.dataBits b).length) (hlen : xs.length = n * s.spb) :
    sentSymbols n xs s = frameSymbols s.build.carrierBits s.dataBits b := by
  refine List.ext_getElem (by simp [sentSymbols, hn]) fun k hk hk' => ?_
  have htake : (xs.take ((k + 1) * s.spb)).length = (k + 1) * s.spb := by
    rw [List.length_take, hlen]
    exact Nat.min_eq_left (Nat.mul_le_mul_right s.spb (by omega))
  obtain ⟨hsym, _⟩ := (transmissionSendsTheFrame s b h).1 k _ hk' htake
  simp only [sentSymbols, List.getElem_map, List.getElem_range]
  rw [hsym, List.getD_eq_getElem?_getD, List.getElem?_eq_getElem hk', Option.getD_some]

/-- The symbols of a frame, held for `SPB` decisions each: a MARK line, an ideal frame, and a MARK line again. -/
theorem heldSymbols_eq (carrierBits dataBits spb : Nat) (hspb : 4 ≤ spb) (b : Byte) :
    (frameSymbols carrierBits dataBits b).flatMap (fun bit => List.replicate spb bit) =
      List.replicate (carrierBits * spb) true ++ (idealFrame spb dataBits b ++
        List.replicate (spb - (spb / 2 + 1) + carrierBits * spb) true) := by
  have hstop : List.replicate spb true =
      List.replicate (spb / 2 + 1) true ++ List.replicate (spb - (spb / 2 + 1)) true := by
    rw [List.replicate_append_replicate]
    congr 1
    omega
  rw [frameSymbols, idealFrame, ← List.replicate_append_replicate (n := spb - (spb / 2 + 1))]
  simp only [List.flatMap_append, List.flatMap_replicate, List.flatten_replicate_replicate, List.flatMap_singleton]
  rw [hstop]
  simp only [List.append_assoc]

/-- A MARK line before the frame: the receiver listens on, and a running loss timer has six TICKs left. -/
theorem listening.decisionRun_high {r : State} (hl : listening r) (htime : lossTimeLeft 12 6 r) (n : Nat) :
    ∃ hist l, decisionRun (List.replicate n true) r = { r with rxHist := hist, lossCnt := l } ∧
      hist.getLsbD 0 = true ∧ (r.carrierLocked = true → r.dcdFollows = true → 6 ≤ l.toNat) := by
  obtain ⟨hb, hs, hone⟩ := hl
  have hstart : State.OnMark r 13 r := by
    refine ⟨rfl, 1, by decide, fun i hi => ?_, fun hlock hfollow => ?_⟩
    · rw [Nat.lt_one_iff.mp hi]; exact hone
    · have := (htime hlock hfollow).1
      omega
  obtain ⟨hframe, j, ⟨hj1, hj7⟩, hones, hleft⟩ := hstart.decisionRun_high hb hs (by decide)
    (fun hlock hfollow => by have := (htime hlock hfollow).2; omega) n
  refine ⟨_, _, hframe, hones 0 hj1, fun hlock hfollow => ?_⟩
  have := hleft (by rw [hframe]; exact hlock) (by rw [hframe]; exact hfollow)
  omega

/-- A MARK line after the frame: the receiver stays in WAIT with the byte pushed. -/
theorem decisionRun_idealFrame_high {s : State} (b : Byte) (hl : listening s) (htime : lossTimeLeft 6 6 s) (n : Nat) :
    (decisionRun (idealFrame s.spb s.dataBits b ++ List.replicate n true) s).rxState = .wait ∧
      (decisionRun (idealFrame s.spb s.dataBits b ++ List.replicate n true) s).rxf =
        s.rxf.push s.build.rxFifoBits (lowBits s.dataBits b) := by
  obtain ⟨hlo, _⟩ := spb_range hl.1
  obtain ⟨h, l, hrun, hcount⟩ := decisionRun_idealFrame b hl fun hlock hfollow =>
    ⟨by have := (htime hlock hfollow).1; omega, Nat.zero_le _⟩
  have hones : ∀ i < 3, h.getLsbD i = true := fun i hi => by
    have hlast := decisionRun_high_ones (decisionRun (List.replicate s.spb false ++
      ((List.range s.dataBits).map (fun k => b.getLsbD k)).flatMap (fun bit => List.replicate s.spb bit)) s)
      (s.spb / 2 + 1) i (by omega) (by omega)
    rw [← decisionRun_append, ← idealFrame, hrun] at hlast
    exact hlast
  have hstart : State.OnMark ((s.received b l).rxAt h .wait (s.spb / 2) (s.spb / 2)) 8
      ((s.received b l).rxAt h .wait (s.spb / 2) (s.spb / 2)) := by
    refine ⟨rfl, 3, by decide, hones, fun hlock hfollow => ?_⟩
    have hleft := (htime hlock hfollow).1
    have hl' := hcount hlock hfollow
    show 8 ≤ l.toNat + 3
    omega
  have hend := hstart.decisionRun_high hl.1 rfl (by decide)
    (fun hlock hfollow => Nat.le_trans (by decide) (Nat.add_le_add_right (htime hlock hfollow).2 7)) n
  rw [decisionRun_append, hrun, hend.frame]
  exact ⟨rfl, rfl⟩

/-- Settles O50: the preamble leaves the receiver listening, the ideal frame in the symbols is received, and the trail
leaves it at that. -/
theorem transmittedByteIsReceived : Obligations.TransmittedByteIsReceived := by
  intro s r b xs n hsend hlisten htime hspb hdata hn hlen
  obtain ⟨hlo, _⟩ := spb_range hlisten.1
  obtain ⟨hist, l, hpre, hone, hleft⟩ := hlisten.decisionRun_high htime (s.build.carrierBits * r.spb)
  have hready : listening { r with rxHist := hist, lossCnt := l } := ⟨hlisten.1, hlisten.2.1, hone⟩
  rw [sentSymbols_eq_frameSymbols hsend hn hlen, ← hspb, ← hdata, heldSymbols_eq _ _ _ hlo, decisionRun_append, hpre]
  exact decisionRun_idealFrame_high b hready
    (fun hlock hfollow => ⟨hleft hlock hfollow, (htime hlock hfollow).2⟩) _

end Sys2Proof.Machine
end

section
/-! The RX signal chain in exact integers: the ranges in which no sum wraps, and what a TICK leaves in the filter cells and
the history (44_demodulator.md rules R210 to R218). -/

namespace Sys2Proof.Machine

/-! The ranges of the product and of the filter output. -/

/-- A shift by at least `j` keeps a range around 0, scaled by `2^j` (rule R12). -/
theorem asr_range {v lo hi : Int} {j k : Nat} (hjk : j ≤ k) (hlo : lo ≤ 0) (hhi : 0 ≤ hi)
    (h1 : lo * 2 ^ j ≤ v) (h2 : v ≤ hi * 2 ^ j) : lo ≤ asr v k ∧ asr v k ≤ hi := by
  have hpos : (0 : Int) < ((2 ^ k : Nat) : Int) := Int.natCast_pos.mpr (Nat.two_pow_pos k)
  have hpow : (2 : Int) ^ j ≤ ((2 ^ k : Nat) : Int) := by exact_mod_cast Nat.pow_le_pow_right (by decide) hjk
  exact ⟨Int.le_ediv_of_mul_le hpos (Int.le_trans (Int.mul_le_mul_of_nonpos_left hlo hpow) h1),
    Int.ediv_le_of_le_mul hpos (Int.le_trans h2 (Int.mul_le_mul_of_nonneg_left hpow hhi))⟩

/-- The product of two unbiased samples (rule R213): its ends are at corners of the square of the two ranges. -/
theorem unbias_mul_unbias_range (a b : Byte) : -16256 ≤ unbias a * unbias b ∧ unbias a * unbias b ≤ 16384 := by
  obtain ⟨ha1, ha2⟩ := unbias_bounds a
  obtain ⟨hb1, hb2⟩ := unbias_bounds b
  have hlow : 0 ≤ (unbias a + 128) * (127 - unbias b) := Int.mul_nonneg (by omega) (by omega)
  have hlow' : 0 ≤ (127 - unbias a) * (unbias b + 128) := Int.mul_nonneg (by omega) (by omega)
  have hhigh : 0 ≤ (unbias a + 128) * (unbias b + 128) := Int.mul_nonneg (by omega) (by omega)
  have hhigh' : 0 ≤ (127 - unbias a) * (127 - unbias b) := Int.mul_nonneg (by omega) (by omega)
  simp only [Int.add_mul, Int.sub_mul, Int.mul_add, Int.mul_sub] at hlow hlow' hhigh hhigh'
  constructor <;> omega

/-- At a legal `PROD_SHIFT` the product is stored without a wrap, in the range of rule R213. -/
theorem correlate_exact {k : Nat} (hk : 2 ≤ k) (a b : Byte) :
    (correlate k (unbias a) (unbias b)).toInt = asr (unbias a * unbias b) k ∧
      -4064 ≤ (correlate k (unbias a) (unbias b)).toInt ∧ (correlate k (unbias a) (unbias b)).toInt ≤ 4096 := by
  obtain ⟨hlo, hhi⟩ := unbias_mul_unbias_range a b
  obtain ⟨h1, h2⟩ := asr_range (lo := -4064) (hi := 4096) hk (by decide) (by decide) hlo hhi
  have hexact : (correlate k (unbias a) (unbias b)).toInt = asr (unbias a * unbias b) k :=
    wraps16_toInt (by omega) (by omega)
  rw [hexact]
  exact ⟨rfl, h1, h2⟩

/-- At a legal `Y_SHIFT` the filter output of cells in their ranges is stored without a wrap, in the range of rule
R216. -/
theorem filterOut_exact {k : Nat} (hk : 1 ≤ k) {xPrev xNow yPrev : BitVec 16}
    (hp : -4064 ≤ xPrev.toInt ∧ xPrev.toInt ≤ 4096) (hn : -4064 ≤ xNow.toInt ∧ xNow.toInt ≤ 4096)
    (hy : -16256 ≤ yPrev.toInt ∧ yPrev.toInt ≤ 16384) :
    (filterOut k xPrev xNow yPrev).toInt = xPrev.toInt + xNow.toInt + asr yPrev.toInt k ∧
      -16256 ≤ (filterOut k xPrev xNow yPrev).toInt ∧ (filterOut k xPrev xNow yPrev).toInt ≤ 16384 := by
  obtain ⟨h1, h2⟩ := asr_range (lo := -8128) (hi := 8192) hk (by decide) (by decide)
    (show _ ≤ yPrev.toInt by omega) (by omega)
  have hexact : (filterOut k xPrev xNow yPrev).toInt = xPrev.toInt + xNow.toInt + asr yPrev.toInt k :=
    wraps16_toInt (by omega) (by omega)
  rw [hexact]
  omega

/-! The chain after a TICK. -/

/-- The filter cells after a TICK: the old outputs and products move on, and the new ones follow (rules R211 to R215). -/
theorem afterTick_filter (x : Byte) (s : State) :
    (s.afterTick x).iirX0 = s.iirX1 ∧ (s.afterTick x).iirY0 = s.iirY1 ∧
      (s.afterTick x).iirX1 = correlate s.build.prodShift (unbias (s.dlRead 0)) (unbias x) ∧
      (s.afterTick x).iirY1 = filterOut s.build.yShift s.iirX1 (s.afterTick x).iirX1 s.iirY1 := by
  have hchain := afterTick_chainView x s
  have hx1 : (s.afterTick x).iirX1 = _ := congrArg ChainView.iirX1 hchain
  rw [hx1]
  exact ⟨congrArg ChainView.iirX0 hchain, congrArg ChainView.iirY0 hchain, rfl, congrArg ChainView.iirY1 hchain⟩

/-- The history after one more decision, as a number (rule R218). -/
theorem pushHistory_toNat (bit : Bool) (s : State) :
    (pushHistory bit s).rxHist.toNat = (2 * s.rxHist.toNat + bitVal bit) % 256 := by
  have hall : ∀ (hist : BitVec 8) (bit : Bool),
      ((hist <<< 1) ||| BitVec.ofNat 8 (bitVal bit)).toNat = (2 * hist.toNat + bitVal bit) % 256 := by decide
  exact hall s.rxHist bit

/-- The history after a TICK: its decision, read off the filter output it leaves, is shifted in, whatever the framer does
(rules R217 and R218). -/
theorem afterTick_rxHist (x : Byte) (s : State) :
    (s.afterTick x).rxHist = (pushHistory (bitDecision s.polarity (s.afterTick x).iirY1) s).rxHist := by
  have hchain := afterTick_chainView x s
  have hy1 : (s.afterTick x).iirY1 = _ := congrArg ChainView.iirY1 hchain
  rw [hy1]
  exact congrArg ChainView.rxHist hchain

theorem newest_afterTick (x : Byte) (s : State) :
    newest (s.afterTick x) = bitDecision s.polarity (s.afterTick x).iirY1 := by
  rw [newest, afterTick_rxHist, pushHistory_newest]

theorem afterTick_rxHist_toNat (x : Byte) (s : State) :
    (s.afterTick x).rxHist.toNat = (2 * s.rxHist.toNat + bitVal (newest (s.afterTick x))) % 256 := by
  rw [newest_afterTick, afterTick_rxHist, pushHistory_toNat]

/-! The ranges of the filter cells. -/

theorem State.IirInv.congr {s t : State} (h : s.IirInv) (hx0 : t.iirX0 = s.iirX0) (hx1 : t.iirX1 = s.iirX1)
    (hy0 : t.iirY0 = s.iirY0) (hy1 : t.iirY1 = s.iirY1) : t.IirInv where
  x0 := hx0 ▸ h.x0
  x1 := hx1 ▸ h.x1
  y0 := hy0 ▸ h.y0
  y1 := hy1 ▸ h.y1

/-- The filter cells after a TICK are in their ranges, and hold the exact product and filter output (rules R213 to
R216). -/
theorem afterTick_filter_exact (x : Byte) {s : State} (hb : s.build.legal = true) (h : s.IirInv) :
    (s.afterTick x).IirInv ∧
      (s.afterTick x).iirX1.toInt = asr (unbias (s.dlRead 0) * unbias x) s.build.prodShift ∧
      (s.afterTick x).iirY1.toInt =
        s.iirX1.toInt + (s.afterTick x).iirX1.toInt + asr s.iirY1.toInt s.build.yShift := by
  obtain ⟨_, _, _, _, ⟨hprod, _⟩, ⟨hy, _⟩, _⟩ := legal_ranges hb
  obtain ⟨hx0, hy0, hx1, hy1⟩ := afterTick_filter x s
  obtain ⟨hproduct, hx1'⟩ := correlate_exact hprod (s.dlRead 0) x
  rw [← hx1] at hproduct hx1'
  obtain ⟨hout, hy1'⟩ := filterOut_exact hy h.x1 hx1' h.y1
  rw [← hy1] at hout hy1'
  exact ⟨⟨hx0 ▸ h.x1, hx1', hy0 ▸ h.y1, hy1'⟩, hproduct, hout⟩

theorem iirInv_stepInvariant : StepInvariant State.IirInv where
  reset b _ := iirInv_resetOf b
  ports _ _ _ _ h := h.congr rfl rfl rfl rfl
  answer _ _ _ _ h := h.congr rfl rfl rfl rfl
  host _ _ _ h hu := by rw [hu.frame]; exact h.congr rfl rfl rfl rfl
  tick x _ hb h := (afterTick_filter_exact x hb h).1

/-- Settles O60: only a TICK writes the filter cells, and at legal shifts the sums of cells in their ranges are back in
them, inside 16 bits. -/
theorem stepKeepsTheFilterRanges : Obligations.StepKeepsTheFilterRanges := iirInv_stepInvariant.step

/-- Settles O40: inside the ranges the stored cells are the integers they are computed from, and the decision is the sign of
the filter output with the polarity. -/
theorem signalChainIsExact : Obligations.SignalChainIsExact := by
  intro x s hb h
  obtain ⟨hx0, hy0, _, _⟩ := afterTick_filter x s
  obtain ⟨_, hx1, hy1⟩ := afterTick_filter_exact x hb h
  have hhist := afterTick_rxHist_toNat x s
  rw [newest_afterTick] at hhist
  exact ⟨_, exec_tick x s, hx0, hy0, hx1, hy1, hhist⟩

end Sys2Proof.Machine
end

section
/-! The window TICKs of the RX framer, at any count: what each window's check leaves (44_demodulator.md rules R224 to
R228). -/

namespace Sys2Proof.Machine

/-- The framer in a window counts the decision, then checks the window (rules R224 to R228). -/
theorem rxFrame_of_window (bit : Bool) {s : State} {q : RxState} (hs : s.rxState = q) (hq : q.hasWindow) :
    rxFrame bit s = windowCheck q (countDecision bit s) := by
  cases q with
  | preamble => exact rxFrame_of_preamble hs
  | startBit => exact rxFrame_of_startBit hs
  | dataBit => exact rxFrame_of_dataBit hs
  | stopBit => exact rxFrame_of_stopBit hs
  | _ => simp [RxState.hasWindow] at hq

/-- The window that a TICK checks: the registers found, and the decision counted in (rules R218 and R224 to R228). -/
theorem afterTick_of_window (x : Byte) {s : State} {q : RxState} (hs : s.rxState = q) (hq : q.hasWindow) :
    (s.afterTick x).framerView =
      (windowCheck q (s.rxAt (s.afterTick x).rxHist q (s.rxCnt.toNat + 1)
        (s.rxBitsum.toNat + bitVal (newest (s.afterTick x))))).framerView := by
  rw [afterTick_framerView, rxFrame_of_window _ (s := { s with rxHist := (s.afterTick x).rxHist }) hs hq, ← hs]
  rfl

section
variable (s : State) (h : BitVec 8) {cnt sum : Nat} (hcnt : cnt ≤ 255) (hsum : sum ≤ 255)
include hcnt hsum

/-- The half window of PREAMBLE: open, accepted into START_BIT with count and sum kept, or rejected (rule R224). -/
theorem windowCheck_preamble :
    windowCheck .preamble (s.rxAt h .preamble cnt sum) =
      s.rxAt h (if cnt < s.spb / 2 then .preamble else if sum ≤ s.spb / 8 then .startBit else .wait) cnt sum := by
  have hcnt' : (wrap8 cnt).toNat = cnt := wrap8_toNat (by omega)
  have hsum' : (wrap8 sum).toNat = sum := wrap8_toNat (by omega)
  show (if s.spb / 2 ≤ (wrap8 cnt).toNat then if (wrap8 sum).toNat ≤ s.spb / 8 then s.rxAt h .startBit cnt sum
    else s.rxAt h .wait cnt sum else s.rxAt h .preamble cnt sum) = _
  rw [hcnt', hsum']
  rcases Nat.lt_or_ge cnt (s.spb / 2) with hopen | hfull
  · rw [if_neg (Nat.not_le_of_lt hopen), if_pos hopen]
  · rw [if_pos hfull, if_neg (Nat.not_lt_of_ge hfull)]
    split <;> rfl

/-- The window of START_BIT: open, rejected, or accepted into DATA_BIT with the registers cleared (rule R225). -/
theorem windowCheck_startBit :
    windowCheck .startBit (s.rxAt h .startBit cnt sum) =
      if cnt < s.spb ∨ s.spb / 4 < sum then s.rxAt h (if cnt < s.spb then .startBit else .wait) cnt sum
      else (s.withData 0 0).rxAt h .dataBit 0 0 := by
  have hcnt' : (wrap8 cnt).toNat = cnt := wrap8_toNat (by omega)
  have hsum' : (wrap8 sum).toNat = sum := wrap8_toNat (by omega)
  show (if s.spb ≤ (wrap8 cnt).toNat then if (wrap8 sum).toNat ≤ s.spb / 4 then (s.withData 0 0).rxAt h .dataBit 0 0
    else s.rxAt h .wait cnt sum else s.rxAt h .startBit cnt sum) = _
  rw [hcnt', hsum']
  split
  · split
    · rw [if_neg (by omega)]
    · rw [if_pos (by omega), if_neg (by omega)]
  · rw [if_pos (by omega), if_pos (by omega)]

/-- The window of a data bit: open, or closed with the bit stored at place `RX_BITS` (rules R226 and R227). -/
theorem windowCheck_dataBit (hbits : s.rxBits.toNat < 8) :
    windowCheck .dataBit (s.rxAt h .dataBit cnt sum) =
      if cnt < s.spb then s.rxAt h .dataBit cnt sum
      else (s.withData (s.rxByte ||| BitVec.ofNat 8 (if s.spb / 2 < sum then 2 ^ s.rxBits.toNat else 0))
          (s.rxBits.toNat + 1)).rxAt h (if s.dataBits ≤ s.rxBits.toNat + 1 then .stopBit else .dataBit) 0 0 := by
  have hcnt' : (wrap8 cnt).toNat = cnt := wrap8_toNat (by omega)
  have hsum' : (wrap8 sum).toNat = sum := wrap8_toNat (by omega)
  have hbits' : (BitVec.ofNat 4 (s.rxBits.toNat + 1)).toNat = s.rxBits.toNat + 1 := by
    rw [BitVec.toNat_ofNat]; omega
  have hbit : bitVal (decide (s.spb / 2 < sum)) * 2 ^ s.rxBits.toNat =
      if s.spb / 2 < sum then 2 ^ s.rxBits.toNat else 0 := by
    by_cases hmajority : s.spb / 2 < sum <;> simp [hmajority, bitVal]
  rcases Nat.lt_or_ge cnt s.spb with hopen | hfull
  · rw [if_pos hopen]
    exact if_neg (by show ¬ s.spb ≤ (wrap8 cnt).toNat; omega)
  · rw [if_neg (by omega), ← hbit]
    calc windowCheck .dataBit (s.rxAt h .dataBit cnt sum)
        = (s.withData (s.rxByte ||| wrap8 (bitVal (decide (s.spb / 2 < (wrap8 sum).toNat)) * 2 ^ s.rxBits.toNat))
            (s.rxBits.toNat + 1)).rxAt h
            (if s.dataBits ≤ (BitVec.ofNat 4 (s.rxBits.toNat + 1)).toNat then .stopBit else .dataBit) 0 0 :=
          if_pos (by show s.spb ≤ (wrap8 cnt).toNat; omega)
      _ = _ := by rw [hsum', hbits']; rfl

/-- The half window of the stop bit: open, or closed to WAIT, with the byte pushed or discarded (rule R228). -/
theorem windowCheck_stopBit :
    windowCheck .stopBit (s.rxAt h .stopBit cnt sum) =
      State.rxAt
        { s with rxf := if s.spb / 2 ≤ cnt ∧ s.spb / 4 < sum then s.rxf.push s.build.rxFifoBits s.rxByte else s.rxf }
        h (if cnt < s.spb / 2 then .stopBit else .wait) cnt sum := by
  have hcnt' : (wrap8 cnt).toNat = cnt := wrap8_toNat (by omega)
  have hsum' : (wrap8 sum).toNat = sum := wrap8_toNat (by omega)
  show (if s.spb / 2 ≤ (wrap8 cnt).toNat then if s.spb / 4 < (wrap8 sum).toNat then
      State.rxAt { s with rxf := s.rxf.push s.build.rxFifoBits s.rxByte } h .wait cnt sum
    else s.rxAt h .wait cnt sum else s.rxAt h .stopBit cnt sum) = _
  rw [hcnt', hsum']
  rcases Nat.lt_or_ge cnt (s.spb / 2) with hopen | hfull
  · rw [if_neg (Nat.not_le_of_lt hopen), if_pos hopen, if_neg (fun hclosed => Nat.not_le_of_lt hopen hclosed.1)]
  · simp only [hfull, if_neg (Nat.not_lt_of_ge hfull), if_true, true_and]
    split <;> rfl

end

/-- Settles O42: the TICK's decision is counted into the window, and the window's check decides where the framer goes. -/
theorem rxStartWindows : Obligations.RxStartWindows := by
  intro x s hcnt hsum
  have hbit := bitVal_le_one (newest (s.afterTick x))
  refine ⟨fun hs => ?_, fun hs => ?_⟩
  · have hview := afterTick_of_window x hs (by simp [RxState.hasWindow])
    rw [windowCheck_preamble s _ (by omega) (by omega)] at hview
    exact ⟨_, exec_tick x s, hview⟩
  · have hview := afterTick_of_window x hs (by simp [RxState.hasWindow])
    rw [windowCheck_startBit s _ (by omega) (by omega), apply_ite State.framerView] at hview
    exact ⟨_, exec_tick x s, hview⟩

/-- Settles O43: as the start windows, with the received bit or the received byte stored by the check. -/
theorem rxDataAndStopWindows : Obligations.RxDataAndStopWindows := by
  intro x s hcnt hsum
  have hbit := bitVal_le_one (newest (s.afterTick x))
  refine ⟨fun hs hbits => ?_, fun hs => ?_⟩
  · have hview := afterTick_of_window x hs (by simp [RxState.hasWindow])
    rw [windowCheck_dataBit s _ (by omega) (by omega) hbits, apply_ite State.framerView] at hview
    exact ⟨_, exec_tick x s, hview.trans (by rw [← hs]; rfl)⟩
  · have hview := afterTick_of_window x hs (by simp [RxState.hasWindow])
    rw [windowCheck_stopBit s _ (by omega) (by omega)] at hview
    exact ⟨_, exec_tick x s, hview⟩

end Sys2Proof.Machine
end

section
/-! The TICKs outside the windows: WAIT, with its loss timer and edge search, the stopped receiver, and decision streams
without an edge; and the ideal frame (44_demodulator.md rules R221 to R232, 45_line_control.md rules R265 and R347). -/

namespace Sys2Proof.Machine

/-! WAIT. -/

/-- A TICK in WAIT, with the history that it leaves (rules R218 and R221). -/
theorem afterTick_of_wait (x : Byte) {s : State} (hs : s.rxState = .wait) :
    (s.afterTick x).framerView = (rxWait { s with rxHist := (s.afterTick x).rxHist }).framerView := by
  rw [afterTick_framerView, rxFrame_of_wait (s := { s with rxHist := (s.afterTick x).rxHist }) hs]

/-- The loss timer runs out on a history with a LOW decision, at 1 or below (rule R221). -/
theorem rxWait_of_timeOut {s : State} (hlock : s.carrierLocked = true) (hfollow : s.dcdFollows = true)
    (hhist : s.rxHist ≠ 0xFF) (htime : s.lossCnt.toNat ≤ 1) : rxWait s = s.loseCarrier := by
  rw [rxWait, hlock, hfollow, Bool.and_self, if_pos rfl, if_neg hhist, if_pos htime]

/-- The loss timer as a number, while it has time left (rule R221). -/
theorem State.nextLoss_eq {s : State}
    (h : ¬ (s.carrierLocked = true ∧ s.dcdFollows = true ∧ s.rxHist ≠ 0xFF ∧ s.lossCnt.toNat ≤ 1)) :
    s.nextLoss =
      if s.carrierLocked = true ∧ s.dcdFollows = true then
        (if s.rxHist = 0xFF then BitVec.ofNat 24 s.lossSamples else BitVec.ofNat 24 (s.lossCnt.toNat - 1))
      else s.lossCnt := by
  simp only [State.nextLoss, Bool.and_eq_true]
  split
  · next hrun =>
    split
    · rfl
    · next hhist =>
      have htime : 1 < s.lossCnt.toNat := Nat.lt_of_not_le fun hle => h ⟨hrun.1, hrun.2, hhist, hle⟩
      exact BitVec.eq_of_toNat_eq (by bv_omega)
  · rfl

/-- A HIGH-to-LOW edge is the last two decisions 1 and 0 (rule R222). -/
theorem edge_iff : ∀ h : BitVec 8, h.extractLsb' 0 2 = 0b10#2 ↔ h.toNat % 4 = 2 := by decide

theorem rxEdgeSearch_eq (s : State) :
    rxEdgeSearch s =
      { s with rxBitsum := if s.rxHist.toNat % 4 = 2 then 0 else s.rxBitsum
               rxCnt := if s.rxHist.toNat % 4 = 2 then 0 else s.rxCnt
               rxState := if s.rxHist.toNat % 4 = 2 then .preamble else s.rxState } := by
  simp only [rxEdgeSearch, edge_iff]
  split <;> rfl

/-- Settles O44: an expired loss timer ends the TICK, and otherwise the timer is set and the edge search follows. -/
theorem rxWaitTick : Obligations.RxWaitTick := by
  intro x s hs
  have hview := afterTick_of_wait x hs
  refine ⟨_, exec_tick x s, fun hlock hfollow hhist htime => ?_, fun hleft => ?_⟩
  · rw [hview, rxWait_of_timeOut (s := { s with rxHist := (s.afterTick x).rxHist }) hlock hfollow hhist htime]
    rfl
  · have htime := rxWait_of_timeLeft (s := { s with rxHist := (s.afterTick x).rxHist })
      fun hlock hfollow hhist => Nat.lt_of_not_le fun hle => hleft ⟨hlock, hfollow, hhist, hle⟩
    have hloss := State.nextLoss_eq (s := { s with rxHist := (s.afterTick x).rxHist }) hleft
    rw [hview, htime, rxEdgeSearch_eq, hloss, ← hs]
    rfl

/-! A stream without an edge. -/

/-- The states in which a decision stream without an edge leaves the receiver: WAIT, or NO_CARRIER when a running loss
timer expires (rules R221 and R222). -/
def RxState.idle (r : RxState) : Prop := r = .wait ∨ r = .noCarrier

/-- A history that gains no HIGH-to-LOW edge (rule R222). -/
theorem pushHistory_no_edge : ∀ (h : BitVec 8) (bit : Bool), (h.getLsbD 0 = true → bit = true) →
    ¬ ((h <<< 1) ||| BitVec.ofNat 8 (bitVal bit)).extractLsb' 0 2 = 0b10#2 := by decide

/-- A decision that makes no edge keeps an idle receiver idle, and pushes nothing. -/
theorem takeDecision_no_edge {bit : Bool} {s : State} (hs : s.rxState.idle)
    (hbit : s.rxHist.getLsbD 0 = true → bit = true) :
    (takeDecision bit s).rxf = s.rxf ∧ (takeDecision bit s).rxState.idle := by
  rcases hs with hs | hs
  · rw [takeDecision, rxFrame_of_wait (s := pushHistory bit s) hs]
    rcases rxWait_cases (pushHistory bit s) with ⟨_, e⟩ | ⟨n, e⟩ <;> rw [e]
    · exact ⟨rfl, .inr rfl⟩
    · rw [rxEdgeSearch_of_no_edge (s := { pushHistory bit s with lossCnt := n }) (pushHistory_no_edge s.rxHist bit hbit)]
      exact ⟨rfl, .inl hs⟩
  · rw [takeDecision, rxFrame_of_noCarrier (s := pushHistory bit s) hs]
    exact ⟨rfl, .inr hs⟩

theorem decisionRun_replicate_no_edge {bit : Bool} (n : Nat) {s : State} (hs : s.rxState.idle)
    (hbit : n ≠ 0 → s.rxHist.getLsbD 0 = true → bit = true) :
    (decisionRun (List.replicate n bit) s).rxf = s.rxf ∧ (decisionRun (List.replicate n bit) s).rxState.idle := by
  induction n generalizing s with
  | zero => exact ⟨rfl, hs⟩
  | succ n ih =>
    obtain ⟨hrxf, hs'⟩ := takeDecision_no_edge hs (hbit (Nat.succ_ne_zero n))
    rw [List.replicate_succ, decisionRun_cons, ← hrxf]
    exact ih hs' fun _ hhigh => (takeDecision_newest bit s).symm.trans hhigh

/-- Settles O48: neither the LOW part of the stream nor the HIGH part has an edge, and so no window is ever opened. -/
theorem noEdgeNoByte : Obligations.NoEdgeNoByte := by
  intro s m n hs hedge
  obtain ⟨hrxf, hidle⟩ := decisionRun_replicate_no_edge (bit := false) m (.inl hs) fun hm hhigh =>
    absurd (hedge.resolve_right hm) (by rw [hhigh]; decide)
  rw [decisionRun_append, ← hrxf]
  exact decisionRun_replicate_no_edge n hidle fun _ _ => rfl

/-! The ideal frame. -/

/-- Settles O49: the frame leaves the receiver with the byte pushed, back in WAIT. -/
theorem idealFrameIsReceived : Obligations.IdealFrameIsReceived := by
  intro s b hl htime
  obtain ⟨h, l, hrun, _⟩ := decisionRun_idealFrame b hl htime
  rw [hrun]
  exact ⟨rfl, rfl, rfl⟩

/-! The stopped receiver. -/

/-- The operations that can write `RX_STATE`: a TICK, `SETRXCAR`, and `ACKNC` in NO_CARRIER (rule R347). -/
theorem exec_rxState {i : Instr} {s t : State} (h : exec i s = .next t) :
    t.rxState = s.rxState ∨ (∃ x, i = .tick x) ∨ (∃ v, i = .setrxcar v) ∨
      (i = .acknc ∧ s.rxState = .noCarrier ∧ t.rxState = .nop) := by
  cases i with
  | tick x => exact .inr (.inl ⟨x, rfl⟩)
  | setrxcar v => exact .inr (.inr (.inl ⟨v, rfl⟩))
  | acknc =>
    change execAcknc s = _ at h
    unfold execAcknc at h
    split at h
    · next hs => cases h; exact .inr (.inr (.inr ⟨rfl, hs, rfl⟩))
    · cases h; exact .inl rfl
  | fifolen f =>
    obtain ⟨flag, d, e⟩ := execFifolen_answers f s
    cases e.symm.trans h; exact .inl rfl
  | status g =>
    obtain ⟨err, d, e⟩ := execStatus_answers g s
    cases e.symm.trans h; exact .inl rfl
  | dial v => rw [execDial_frame h]; exact .inl rfl
  | _ => cases h; exact .inl rfl

/-- A TICK leaves a stopped receiver as it is (rule R232). -/
theorem afterTick_of_stopped (x : Byte) {s : State} (hs : s.rxState = .nop ∨ s.rxState = .noCarrier) :
    (s.afterTick x).framerView = s.framerView := by
  rw [afterTick_framerView]
  rcases hs with hs | hs
  · rw [rxFrame_of_nop (s := { s with rxHist := (s.afterTick x).rxHist }) hs]; rfl
  · rw [rxFrame_of_noCarrier (s := { s with rxHist := (s.afterTick x).rxHist }) hs]; rfl

/-- An operation that moves a stopped receiver is a `SETRXCAR`, or the `ACKNC` of a carrier loss (rule R347). -/
theorem exec_leaves_stopped {i : Instr} {s t : State} (h : exec i s = .next t)
    (hs : s.rxState = .nop ∨ s.rxState = .noCarrier) (hne : t.rxState ≠ s.rxState) :
    (∃ v, i = .setrxcar v) ∨ (i = .acknc ∧ s.rxState = .noCarrier ∧ t.rxState = .nop) := by
  rcases exec_rxState h with hst | ⟨x, rfl⟩ | hcar
  · exact absurd hst hne
  · rw [exec_tick_inv h] at hne
    exact absurd (congrArg FramerView.rxState (afterTick_of_stopped x hs)) hne
  · exact hcar

/-- Settles O54: a TICK leaves a stopped framer alone, and of the host commands only the two named write `RX_STATE`. -/
theorem stoppedReceiverWaitsForTheHost : Obligations.StoppedReceiverWaitsForTheHost := by
  intro i s t h
  refine ⟨fun hs hne => ?_, fun hs hne => ?_, ?_⟩
  · rcases exec_leaves_stopped h (.inl hs) (hs ▸ hne) with ⟨v, rfl⟩ | ⟨_, hs', _⟩
    · cases v with
      | true => rfl
      | false => cases h; exact absurd rfl hne
    · exact absurd (hs.symm.trans hs') (by decide)
  · rcases exec_leaves_stopped h (.inr hs) (hs ▸ hne) with hcar | ⟨hack, _, hnop⟩
    · exact .inr hcar
    · exact .inl ⟨hack, hnop⟩
  · rintro x rfl hs
    rw [exec_tick_inv h]
    exact ⟨afterTick_of_stopped x hs, afterTick_rxHist_toNat x s⟩

end Sys2Proof.Machine
end

section
/-! The line-control commands and the acquisition of a carrier: `SETDIR` twice, `SETRXCAR`, `ACKNC`, the configuration
registers, and the TICKs and decisions of the state CARRIER (45_line_control.md rules R262 to R281). -/

namespace Sys2Proof.Machine

/-! One decision in CARRIER. -/

theorem State.nextStreak_toNat_eq_streakAfter (s : State) (bit : Bool) : (s.nextStreak bit).toNat = streakAfter bit s :=
  s.nextStreak_toNat bit

theorem State.nextStreak_eq (s : State) (bit : Bool) : s.nextStreak bit = BitVec.ofNat 24 (streakAfter bit s) := by
  cases bit with
  | false => rfl
  | true => rfl

section
variable {bit : Bool} {s : State}

/-- The lock test comes first: a TICK that also ends the wait still locks (rule R263). -/
theorem carrierStep_of_lock (hlock : s.cdTotal ≤ streakAfter bit s) :
    carrierStep bit s = State.lockCarrier { s with cdStreak := BitVec.ofNat 24 (streakAfter bit s) } := by
  rw [← s.nextStreak_toNat_eq_streakAfter] at hlock
  rw [carrierStep, if_pos hlock, s.nextStreak_eq]

theorem carrierStep_of_timeOut (hstreak : streakAfter bit s < s.cdTotal) (htime : s.waitCnt.toNat ≤ 1) :
    carrierStep bit s =
      { s with cdStreak := BitVec.ofNat 24 (streakAfter bit s), waitCnt := 0, acqFailed := true, rxState := .nop } := by
  have hwait : s.nextWait = 0 := s.nextWait_eq_zero_iff.mpr htime
  rw [← s.nextStreak_toNat_eq_streakAfter] at hstreak
  rw [carrierStep, if_neg (Nat.not_le_of_lt hstreak), if_pos hwait, hwait, s.nextStreak_eq]

theorem carrierStep_of_timeLeft (hstreak : streakAfter bit s < s.cdTotal) (htime : 1 < s.waitCnt.toNat) :
    carrierStep bit s =
      { s with cdStreak := BitVec.ofNat 24 (streakAfter bit s), waitCnt := BitVec.ofNat 24 (s.waitCnt.toNat - 1) } := by
  have hne : ¬ s.nextWait = 0 := mt s.nextWait_eq_zero_iff.mp (Nat.not_le_of_lt htime)
  have hwait : s.nextWait = BitVec.ofNat 24 (s.waitCnt.toNat - 1) := by
    rw [State.nextWait, if_pos (by omega)]
    bv_omega
  rw [← s.nextStreak_toNat_eq_streakAfter] at hstreak
  rw [carrierStep, if_neg (Nat.not_le_of_lt hstreak), if_neg hne, hwait, s.nextStreak_eq]

end

/-! TICKs in CARRIER. -/

/-- A TICK in CARRIER runs `CarrierStep` on its own decision (rules R218 and R263). -/
theorem afterTick_of_carrier (x : Byte) {s : State} (hs : s.rxState = .carrier) :
    (s.afterTick x).framerView =
      (carrierStep (newest (s.afterTick x)) { s with rxHist := (s.afterTick x).rxHist }).framerView := by
  rw [afterTick_framerView, rxFrame_of_carrier (s := { s with rxHist := (s.afterTick x).rxHist }) hs]
  rfl

/-- Settles O45: each clause is one outcome of `CarrierStep`. -/
theorem carrierTick : Obligations.CarrierTick := by
  intro x s hs
  have hview := afterTick_of_carrier x hs
  refine ⟨_, exec_tick x s, fun hlock => ?_, fun hstreak htime => ?_, fun hstreak htime => ?_⟩
  · rw [hview, carrierStep_of_lock]
    exacts [rfl, hlock]
  · rw [hview, carrierStep_of_timeOut]
    exacts [rfl, hstreak, htime]
  · rw [hview, carrierStep_of_timeLeft]
    exacts [rfl, hstreak, htime]

/-- An acquisition has ended: locked in WAIT, or failed in NOP (rules R263 and R317). -/
def State.acquisitionOver (s : State) : Prop :=
  (s.rxState = .wait ∧ s.carrierLocked = true) ∨ (s.rxState = .nop ∧ s.acqFailed = true)

/-- A TICK ends the acquisition, or uses up one TICK of a wait that has more than one left (rule R263). -/
theorem afterTick_acquisition (x : Byte) {s : State} (hs : s.rxState = .carrier) :
    (s.afterTick x).acquisitionOver ∨
      (1 < s.waitCnt.toNat ∧ (s.afterTick x).rxState = .carrier ∧
        (s.afterTick x).waitCnt.toNat = s.waitCnt.toNat - 1) := by
  obtain ⟨t, ht, hlock, hfail, hwait⟩ := carrierTick x s hs
  obtain rfl := exec_tick_inv ht
  rcases Nat.lt_or_ge (streakAfter (newest (s.afterTick x)) s) s.cdTotal with hstreak | hstreak
  · rcases Nat.lt_or_ge 1 s.waitCnt.toNat with htime | htime
    · have hview := hwait hstreak htime
      have hcnt : (s.afterTick x).waitCnt = _ := congrArg FramerView.waitCnt hview
      refine .inr ⟨htime, (congrArg FramerView.rxState hview).trans hs, ?_⟩
      rw [hcnt]
      exact Nat.mod_eq_of_lt (by have := s.waitCnt.isLt; omega)
    · have hview := hfail hstreak htime
      exact .inl (.inr ⟨congrArg FramerView.rxState hview, congrArg FramerView.acqFailed hview⟩)
  · have hview := hlock hstreak
    exact .inl (.inl ⟨congrArg FramerView.rxState hview, congrArg FramerView.carrierLocked hview⟩)

/-- Settles O47, by induction on the samples: a TICK that does not end the acquisition leaves a shorter one. -/
theorem acquisitionEnds : Obligations.AcquisitionEnds := by
  intro s xs hs hwait hlen
  induction xs generalizing s with
  | nil => simp at hlen; omega
  | cons x xs ih =>
    rcases afterTick_acquisition x hs with hover | ⟨htime, hs', hwait'⟩
    · exact ⟨1, Nat.le_add_left 1 xs.length, hover⟩
    · rw [List.length_cons] at hlen
      obtain ⟨k, hk, hover⟩ := ih (s.afterTick x) hs' (by omega) (by omega)
      exact ⟨k + 1, Nat.succ_le_succ hk, hover⟩

/-! The host commands. -/

theorem Fifo.isEmpty_clear (bits : Nat) (f : Fifo) : f.clear.isEmpty bits = true :=
  (f.clear.contents_nil_iff bits).mp (f.contents_clear bits)

/-- `Reconfigure` and its answer, run again on the state they leave (rule R267). -/
theorem reconfigure_respond_again {s : State} (err flag : Bool) (d : Byte)
    (h : memWf dlFill s.build.maxQueuelen s.dl = true) :
    (s.reconfigure.respond err flag d).reconfigure.respond err flag d = s.reconfigure.respond err flag d := by
  show s.reconfigure.reconfigure.respond err flag d = _
  rw [reconfigure_reconfigure h]

/-- Settles O27: the second `SETDIR` writes the `CFG_DIR` that stands, so it is a second `Reconfigure` and answer. -/
theorem setdirIsIdempotent : Obligations.SetdirIsIdempotent := by
  intro a r s hdl
  have hagain := reconfigure_respond_again (s := { s with cfgDir := BitVec.ofBool r ++ BitVec.ofBool a })
    false false 0x00 hdl
  obtain ⟨_, _, _, hlive, _⟩ :=
    reconfiguredFrom_reconfigure_respond (s := { s with cfgDir := BitVec.ofBool r ++ BitVec.ofBool a }) hdl
  have herr : (responseWord false false 0x00).getLsbD 15 = false := by decide
  exact ⟨_, rfl, congrArg Host.Outcome.next hagain, Fifo.isEmpty_clear _ _, Fifo.isEmpty_clear _ _, hlive, herr⟩

/-- `SETRXCAR 1` answers with the lock that `Acquire` left as `FLAG` (rule R273). -/
theorem exec_setrxcar_true {s u : State} {flag : Bool} (hacquire : s.acquire = u) (hflag : u.carrierLocked = flag) :
    exec (.setrxcar true) s = .next (u.respond false flag 0x00) := by
  subst hacquire hflag
  rfl

/-- Settles O29: the two outcomes of `Acquire` by their conditions, and the stop. -/
theorem setrxcarStartsOrStopsTheReceiver : Obligations.SetrxcarStartsOrStopsTheReceiver := by
  intro s
  rcases acquire_cases s with ⟨himmediate, e⟩ | ⟨hwait, hignore, e⟩
  · refine ⟨fun _ => exec_setrxcar_true (flag := true) e rfl, fun hwait hignore => ?_, rfl⟩
    exact absurd himmediate (not_or_intro hwait (Bool.eq_false_iff.mp hignore))
  · refine ⟨fun himmediate => ?_, fun _ _ => exec_setrxcar_true (flag := false) e rfl, rfl⟩
    exact absurd himmediate (not_or_intro hwait (Bool.eq_false_iff.mp hignore))

/-- Settles O30: `ACKNC` looks at the state of the receiver alone. -/
theorem ackncAcknowledgesACarrierLoss : Obligations.AckncAcknowledgesACarrierLoss :=
  fun _ => ⟨fun h => if_pos h, fun h => if_neg h⟩

/-- `CFG_OPT` as `CFGRD` answers it, zero-extended (rules R276 and R280). -/
theorem responseWord_cfgOpt (g u : Bool) :
    responseWord false false ((BitVec.ofBool u ++ BitVec.ofBool g).setWidth 8) =
      BitVec.ofNat 16 (bitVal g + 2 * bitVal u) := by
  cases g <;> cases u <;> rfl

/-- Settles O32: each command writes its own register, and `CFGRD` answers with the register that its operand names. -/
theorem configurationRegistersReadBack : Obligations.ConfigurationRegistersReadBack := by
  intro n g u s
  obtain ⟨hg, hu⟩ := cfgDir_of_bits g u
  refine ⟨rfl, rfl, rfl, ⟨BitVec.ofBool u ++ BitVec.ofBool g, hg, hu, rfl, ?_⟩, rfl, rfl, rfl⟩
  rw [← responseWord_cfgOpt]
  rfl

/-! The lock boundary. -/

/-- An acquisition under way: the streak to reach, the streak so far, and the TICKs left to wait (rule R263). -/
structure State.Acquiring (total streak time : Nat) (s : State) : Prop where
  state    : s.rxState = .carrier
  unlocked : s.carrierLocked = false
  total    : s.cdTotal = total
  streak   : s.cdStreak.toNat = streak
  time     : s.waitCnt.toNat = time

theorem takeDecision_of_carrier (bit : Bool) {s : State} (hs : s.rxState = .carrier) :
    takeDecision bit s = carrierStep bit (pushHistory bit s) :=
  rxFrame_of_carrier (s := pushHistory bit s) hs

section
variable {total streak time : Nat} {s : State}

/-- A decision that neither locks nor ends the wait (rule R263). -/
theorem State.Acquiring.takeDecision_waits (bit : Bool) (h : State.Acquiring total streak time s)
    (hstreak : streakAfter bit s < total) (htime : 1 < time) :
    State.Acquiring total (streakAfter bit s) (time - 1) (takeDecision bit s) := by
  obtain ⟨hs, hunlocked, rfl, rfl, rfl⟩ := h
  rw [takeDecision_of_carrier bit hs, carrierStep_of_timeLeft (s := pushHistory bit s) hstreak htime]
  have hwait := s.waitCnt.isLt
  refine ⟨hs, hunlocked, rfl, ?_, Nat.mod_eq_of_lt (by show s.waitCnt.toNat - 1 < _; omega)⟩
  rw [← s.nextStreak_toNat_eq_streakAfter, s.nextStreak_eq]
  rfl

/-- A decision that reaches the streak (rule R263). -/
theorem State.Acquiring.takeDecision_locks (bit : Bool) (h : State.Acquiring total streak time s)
    (hstreak : total ≤ streakAfter bit s) :
    (takeDecision bit s).carrierLocked = true ∧ (takeDecision bit s).rxState = .wait := by
  obtain ⟨hs, _, rfl, _, _⟩ := h
  rw [takeDecision_of_carrier bit hs, carrierStep_of_lock (s := pushHistory bit s) hstreak]
  exact ⟨rfl, rfl⟩

theorem State.Acquiring.streakAfter_high (h : State.Acquiring total streak time s) (hfit : streak + 1 < 2 ^ 24) :
    streakAfter true s = streak + 1 := by
  rw [streakAfter, if_pos rfl, h.streak]
  omega

/-- HIGH decisions short of the streak (rule R264). -/
theorem State.Acquiring.decisionRun_high (htotal : total < 2 ^ 24) (n : Nat) (h : State.Acquiring total streak time s)
    (hstreak : streak + n < total) (htime : n < time) :
    State.Acquiring total (streak + n) (time - n) (decisionRun (List.replicate n true) s) := by
  induction n generalizing streak time s with
  | zero => exact h
  | succ n ih =>
    have hnext := h.streakAfter_high (by omega)
    have hstep := h.takeDecision_waits true (by omega) (by omega)
    rw [hnext] at hstep
    have hrest := ih hstep (by omega) (by omega)
    rwa [Nat.add_right_comm, Nat.sub_sub, Nat.add_comm 1 n] at hrest

end

/-- Settles O46: the `CD_TOTAL` - 1 HIGH decisions leave the acquisition one short, and the next decision decides. -/
theorem carrierLockBoundary : Obligations.CarrierLockBoundary := by
  intro s hb hwait hignore htime
  obtain ⟨htotal1, htotal, _, hsamples, _⟩ := timerConstantsFitTheirCounters s hb
  obtain ⟨_, hstart, _⟩ := setrxcarStartsOrStopsTheReceiver s
  obtain ⟨t, ht, h0⟩ : ∃ t, exec (.setrxcar true) s = .next t ∧ State.Acquiring s.cdTotal 0 s.waitSamples t :=
    ⟨_, hstart hwait hignore, rfl, rfl, rfl, rfl, Nat.mod_eq_of_lt hsamples⟩
  have hshort := h0.decisionRun_high htotal (s.cdTotal - 1) (by omega) (by omega)
  have hhigh := hshort.streakAfter_high (by omega)
  have hrun : List.replicate s.cdTotal true = List.replicate (s.cdTotal - 1) true ++ [true] := by
    rw [← List.replicate_succ', Nat.sub_add_cancel htotal1]
  obtain ⟨hlocked, hstate⟩ := hshort.takeDecision_locks true (by omega)
  have hlow := hshort.takeDecision_waits false htotal1 (by omega)
  refine ⟨t, ht, ?_⟩
  rw [hrun, decisionRun_append, decisionRun_append]
  exact ⟨hlocked, hstate, hshort.unlocked, hlow.unlocked, BitVec.eq_of_toNat_eq hlow.streak, hlow.state⟩

end Sys2Proof.Machine
end

section
/-! The events of the two ports: an illegal command word (E1), and what a TICK meets (E3 to E7), told from the states before
and after it (60_exceptions.md rules R311 to R318). -/

namespace Sys2Proof.Machine

/-! The illegal command word. -/

theorem step_of_takeOp_illegal {s t : State} {r : Reject} (h : takeOp s = .illegal r t) :
    step s = .next t.rejectCommand := by
  unfold step
  rw [h]

/-- Settles O7: a word that does not decode is taken from the input, and the exceptional response is all that follows. -/
theorem illegalWordIsAnsweredAndIgnored : Obligations.IllegalWordIsAnsweredAndIgnored := by
  intro s w rest r hb hin hdec
  have htake := takeOp_command hb hin
  rw [decode, hdec] at htake
  exact step_of_takeOp_illegal htake

/-! The event as the states before and after tell it. -/

/-- The event that took the receiver from `s` to `t`, by the state it was in (rules R314 to R318). -/
def eventBetween (s t : State) : Option Event :=
  match s.rxState with
  | .wait => if t.rxState = .noCarrier then some .carrierLoss else none
  | .preamble | .startBit => if t.rxState = .wait then some .framingReject else none
  | .stopBit =>
      if t.rxState = .wait then
        if s.spb / 4 < t.rxBitsum.toNat then (if s.rxFull then some .rxOverflow else none) else some .stopFail
      else none
  | .carrier => if t.rxState = .nop then some .acqTimeout else none
  | .dataBit | .noCarrier | .nop => none

/-- The cause of each event of a TICK from `s` to `t` (rules R314 to R318). E1 and E2 are events of the host commands. -/
def Event.cause (s t : State) : Event → Prop
  | .illegalCmd | .txFifoFull => False
  | .rxOverflow =>
      s.rxState = .stopBit ∧ t.rxState = .wait ∧ s.spb / 4 < t.rxBitsum.toNat ∧ s.rxFull = true
  | .framingReject => (s.rxState = .preamble ∨ s.rxState = .startBit) ∧ t.rxState = .wait
  | .stopFail => s.rxState = .stopBit ∧ t.rxState = .wait ∧ t.rxBitsum.toNat ≤ s.spb / 4
  | .acqTimeout => s.rxState = .carrier ∧ t.rxState = .nop
  | .carrierLoss => s.rxState = .wait ∧ t.rxState = .noCarrier

/-- At most one cause holds, so the event tells its cause (rule R320). -/
theorem eventBetween_eq_some_iff (s t : State) (e : Event) : eventBetween s t = some e ↔ e.cause s t := by
  cases hs : s.rxState with
  | stopBit =>
    rcases Nat.lt_or_ge (s.spb / 4) t.rxBitsum.toNat with hmany | hfew
    · cases e <;> simp [eventBetween, Event.cause, hs, hmany]
    · cases e <;> simp [eventBetween, Event.cause, hs, hfew, Nat.not_lt_of_ge hfew]
  | _ => cases e <;> simp [eventBetween, Event.cause, hs]

/-! When each rule of the framer takes the move that an event stands for. -/

section
variable {s : State}

theorem rxWait_loses_iff (hs : s.rxState = .wait) :
    (rxWait s).rxState = .noCarrier ↔
      s.carrierLocked = true ∧ s.dcdFollows = true ∧ s.rxHist ≠ 0xFF ∧ s.lossCnt.toNat ≤ 1 := by
  constructor
  · intro hlost
    by_contra hleft
    rw [rxWait_of_timeLeft fun hlock hfollow hhist => Nat.lt_of_not_le fun hle => hleft ⟨hlock, hfollow, hhist, hle⟩]
      at hlost
    rcases rxEdgeSearch_cases { s with lossCnt := s.nextLoss } with e | e <;> rw [e] at hlost
    · cases hs.symm.trans hlost
    · cases hlost
  · rintro ⟨hlock, hfollow, hhist, htime⟩
    rw [rxWait_of_timeOut hlock hfollow hhist htime]
    rfl

theorem rxPreambleCheck_rejects_iff (hs : s.rxState = .preamble) :
    (rxPreambleCheck s).rxState = .wait ↔ s.spb / 2 ≤ s.rxCnt.toNat ∧ s.spb / 8 < s.rxBitsum.toNat := by
  unfold rxPreambleCheck
  split
  · next hfull => split <;> simp [hfull] <;> omega
  · next hopen => simp [hs, hopen]

theorem rxStartBitCheck_rejects_iff (hs : s.rxState = .startBit) :
    (rxStartBitCheck s).rxState = .wait ↔ s.spb ≤ s.rxCnt.toNat ∧ s.spb / 4 < s.rxBitsum.toNat := by
  unfold rxStartBitCheck
  split
  · next hfull => split <;> simp [hfull] <;> omega
  · next hopen => simp [hs, hopen]

/-- The stop window closes to WAIT with its count kept, and stores a byte only after enough HIGH decisions (rule R228). -/
theorem rxStopBitCheck_eq (s : State) :
    rxStopBitCheck s =
      { s with
        rxf := if s.spb / 2 ≤ s.rxCnt.toNat ∧ s.spb / 4 < s.rxBitsum.toNat then s.rxf.push s.build.rxFifoBits s.rxByte
          else s.rxf
        rxState := if s.spb / 2 ≤ s.rxCnt.toNat then .wait else s.rxState } := by
  unfold rxStopBitCheck
  split
  · next hfull =>
    by_cases hmany : s.spb / 4 < s.rxBitsum.toNat <;> simp [hfull, hmany]
  · next hopen => simp [hopen]

theorem rxStopBitCheck_closes_iff (hs : s.rxState = .stopBit) :
    (rxStopBitCheck s).rxState = .wait ↔ s.spb / 2 ≤ s.rxCnt.toNat := by
  simp [rxStopBitCheck_eq, hs]

theorem carrierStep_fails_iff (bit : Bool) (hs : s.rxState = .carrier) :
    (carrierStep bit s).rxState = .nop ↔ ¬ s.cdTotal ≤ (s.nextStreak bit).toNat ∧ s.nextWait = 0 := by
  rw [s.nextWait_eq_zero_iff]
  rcases carrierStep_cases bit s with ⟨hlock, e⟩ | ⟨hstreak, htime, e⟩ | ⟨hstreak, htime, e⟩ <;> rw [e]
  · simp [hlock]
  · simp [hstreak, htime]
  · simp [hs, htime]

end

/-- The framer's event is the one that its two states tell: each rule makes the move exactly when it meets the event. -/
theorem rxEvent_eq_eventBetween (bit : Bool) (s : State) : rxEvent bit s = eventBetween s (rxFrame bit s) := by
  cases hs : s.rxState with
  | wait =>
    simp only [rxEvent, eventBetween, hs, rxFrame_of_wait hs, rxWait_loses_iff hs]
    simp [and_assoc]
  | preamble =>
    have hmove := rxPreambleCheck_rejects_iff (s := countDecision bit s) hs
    simp only [rxEvent, eventBetween, hs, rxFrame_of_preamble hs, hmove]
    rfl
  | startBit =>
    have hmove := rxStartBitCheck_rejects_iff (s := countDecision bit s) hs
    simp only [rxEvent, eventBetween, hs, rxFrame_of_startBit hs, hmove]
    rfl
  | stopBit =>
    have hmove := rxStopBitCheck_closes_iff (s := countDecision bit s) hs
    have hsum : (rxStopBitCheck (countDecision bit s)).rxBitsum = (countDecision bit s).rxBitsum := by
      rw [rxStopBitCheck_eq]
    simp only [rxEvent, eventBetween, hs, rxFrame_of_stopBit hs, hmove, hsum]
    rfl
  | carrier =>
    simp only [rxEvent, eventBetween, hs, rxFrame_of_carrier hs, carrierStep_fails_iff bit hs, ite_and, ite_not]
  | dataBit | noCarrier | nop => simp only [rxEvent, eventBetween, hs]

/-! The events of a TICK. -/

/-- The event of a TICK is the one that the states before and after tell. -/
theorem tickEvent_eq_eventBetween (x : Byte) (s : State) : tickEvent x s = eventBetween s (s.afterTick x) := by
  calc tickEvent x s
      = eventBetween (tickTransmit s) (s.afterTick x) := rxEvent_eq_eventBetween _ _
    _ = eventBetween s (s.afterTick x) := by rw [tickTransmit_frame]; rfl

/-- A failed acquisition is recorded in `ACQ_FAILED`, with the wait timer at 0 (rule R317). -/
theorem afterTick_of_acqTimeout {x : Byte} {s : State} (h : Event.cause s (s.afterTick x) .acqTimeout) :
    (s.afterTick x).acqFailed = true ∧ (s.afterTick x).waitCnt = 0 := by
  obtain ⟨hs, hnop⟩ := h
  have hview := afterTick_of_carrier x hs
  have hmove := (congrArg FramerView.rxState hview).symm.trans hnop
  obtain ⟨hstreak, hwait⟩ := (carrierStep_fails_iff _ (s := { s with rxHist := (s.afterTick x).rxHist }) hs).mp hmove
  rw [carrierStep, if_neg hstreak, if_pos hwait, hwait] at hview
  exact ⟨congrArg FramerView.acqFailed hview, congrArg FramerView.waitCnt hview⟩

/-- A lost carrier is no longer locked (rule R318). -/
theorem afterTick_of_carrierLoss {x : Byte} {s : State} (h : Event.cause s (s.afterTick x) .carrierLoss) :
    (s.afterTick x).carrierLocked = false := by
  obtain ⟨hs, hlost⟩ := h
  have hview := afterTick_of_wait x hs
  have hmove := (congrArg FramerView.rxState hview).symm.trans hlost
  obtain ⟨hlock, hfollow, hhist, htime⟩ :=
    (rxWait_loses_iff (s := { s with rxHist := (s.afterTick x).rxHist }) hs).mp hmove
  rw [rxWait_of_timeOut hlock hfollow hhist htime] at hview
  exact congrArg FramerView.carrierLocked hview

/-- The byte of a failed stop bit, or for a full RX FIFO, is dropped (rules R314 and R316). -/
theorem afterTick_of_droppedByte {x : Byte} {s : State}
    (h : Event.cause s (s.afterTick x) .stopFail ∨ Event.cause s (s.afterTick x) .rxOverflow) :
    (s.afterTick x).rxf = s.rxf := by
  have hs : s.rxState = .stopBit := h.elim And.left And.left
  have hview := afterTick_framerView x s
  rw [rxFrame_of_stopBit (s := { s with rxHist := (s.afterTick x).rxHist }) hs, rxStopBitCheck_eq] at hview
  have hsum : (s.afterTick x).rxBitsum = _ := congrArg FramerView.rxBitsum hview
  have hrxf : (s.afterTick x).rxf = _ := congrArg FramerView.rxf hview
  rcases h with ⟨_, _, hfew⟩ | ⟨_, _, _, hfull⟩
  · rw [hsum] at hfew
    exact hrxf.trans (if_neg fun hstored => Nat.not_lt_of_ge hfew hstored.2)
  · refine hrxf.trans ?_
    show (if _ then s.rxf.push s.build.rxFifoBits s.rxByte else s.rxf) = s.rxf
    rw [Fifo.push_of_full s.rxByte hfull, ite_self]

/-- Settles O55: the states before and after tell the event, and so its cause; what it records is read off the branch of
the framer's rule that this cause selects. -/
theorem tickEventsAreRecorded : Obligations.TickEventsAreRecorded := by
  intro x s t h
  obtain rfl := exec_tick_inv h
  have hcause (e : Event) : tickEvent x s = some e ↔ e.cause s (s.afterTick x) := by
    rw [tickEvent_eq_eventBetween, eventBetween_eq_some_iff]
  refine ⟨hcause .acqTimeout, fun he => ?_, hcause .carrierLoss, fun he => ?_, hcause .framingReject, hcause .stopFail,
    hcause .rxOverflow, fun he => ?_⟩
  · exact afterTick_of_acqTimeout ((hcause _).mp he)
  · exact afterTick_of_carrierLoss ((hcause _).mp he)
  · exact afterTick_of_droppedByte (he.imp (hcause _).mp (hcause _).mp)

end Sys2Proof.Machine
end

section
/-! The idle step, the reset step and the reset values (70_reset_and_hazards.md rules R340 and R341). -/

namespace Sys2Proof.Machine

/-! The idle step and the reset step. -/

theorem takeOp_of_no_input {s : State} (hb : s.build.legal = true) (hin : s.input = []) : takeOp s = .nothing := by
  unfold takeOp
  rw [if_pos hb, hin]

/-- The next operation is the reset: it is gone from the input, and nothing else is touched before it takes effect. -/
theorem takeOp_reset {s : State} {rest : List PortOp} (hb : s.build.legal = true) (hin : s.input = .reset :: rest) :
    takeOp s = .reset { s with input := rest } := by
  unfold takeOp
  rw [if_pos hb, hin]

theorem step_of_takeOp_nothing {s : State} (h : takeOp s = .nothing) : step s = .next s := by
  unfold step
  rw [h]

theorem step_of_takeOp_reset {s t : State} (h : takeOp s = .reset t) : step s = .next t.resetEvent := by
  unfold step
  rw [h]

/-- Settles O8: an empty input gives no operation to take, and a reset taken is `resetEvent` on the rest of the input. -/
theorem idleAndResetSteps : Obligations.IdleAndResetSteps :=
  ⟨fun _ hb hin => step_of_takeOp_nothing (takeOp_of_no_input hb hin),
    fun _ _ hb hin => step_of_takeOp_reset (takeOp_reset hb hin)⟩

/-! The reset values. -/

/-- A delay line that lists nothing reads 0x80, the midline, at every index (rules R44 and R340). -/
theorem dlRead_resetOf (b : Build) (k : Nat) : (State.resetOf b).dlRead k = 0x80 := rfl

/-- The transmitter comes up idle, on MARK, at phase 0, for every build (rules R31 to R37). -/
theorem txView_resetOf (b : Build) :
    (State.resetOf b).txView =
      { txState := .wait, txActive := false, txSym := true, txByte := 0, txSr := 0, txBits := 0, txPhase := 0,
        txCnt := 0, txf := (State.resetOf b).txf } := rfl

/-- The receiver comes up deaf, with its window and its carrier detector cleared, for every build (rules R38 to R43). -/
theorem framerView_resetOf (b : Build) :
    (State.resetOf b).framerView =
      { rxState := .nop, rxBitsum := 0, rxCnt := 0, rxByte := 0, rxBits := 0, carrierLocked := false, cdStreak := 0,
        waitCnt := 0, lossCnt := 0, acqFailed := false, rxf := (State.resetOf b).rxf } := rfl

/-- What the default build derives from the control registers that reset leaves (rules R46 to R49): the Bell 103
originating tones at 300 baud, and the timer constants. -/
theorem reset_derivedValues :
    State.reset.phaseStep false = 7305 ∧ State.reset.phaseStep true = 8670 ∧ State.reset.queuelen = 8 ∧
      State.reset.polarity = false ∧ State.reset.spb = 32 ∧ State.reset.dataBits = 8 ∧ State.reset.cdTotal = 5400 ∧
      State.reset.lossSamples = 13440 ∧ State.reset.waitSamples = 480000 := by decide

/-- Settles O11: the registers are read off the reset state, the delay line at every index, and the derived values are
evaluated at the default build. -/
theorem resetValues : Obligations.ResetValues :=
  ⟨rfl, rfl, rfl, rfl, rfl, rfl, rfl, rfl, txView_resetOf _, framerView_resetOf _, rfl, rfl, rfl, rfl, rfl,
    rfl, rfl, rfl, rfl, fun k _ => dlRead_resetOf _ k, rfl, rfl, rfl, reset_derivedValues⟩

end Sys2Proof.Machine
end
